-- ==== Sys2Proof/Word.lean ====
section
/-! DEFINITION. The word and byte types of the MSK block (spec/00_scope.md R9). -/

namespace Sys2Proof

/-- A register, a command word or the data of a host access: 64 bits (R9). -/
abbrev Word := BitVec 64

/-- A byte: an opcode, a cause code, a byte lane (R20, R49). -/
abbrev Byte := BitVec 8

end Sys2Proof
end

