-- ==== Sys2Proof/Config.lean ====
section
/-! DEFINITION. What an implementation of the MSK block fixes: the table sizes (spec/00_scope.md R8) and the two OPEN
parameters `BASE` (20_memory.md R41) and `LATENCY` (70_reset_and_hazards.md R138). -/

namespace Sys2Proof

/-- The two table sizes of R8. They are the block's one configuration choice with a visible effect (R2); "a model takes
both as arguments", so every operation that depends on them takes them, or reads them from the state, which carries
them unchanged (log entry 5). -/
structure TableSizes where
  /-- `P5_COUNT`: legal `k` of the forward table are `0 <= k < P5_COUNT`. -/
  p5Count : Nat
  /-- `P5I_COUNT`: legal `k` of the reciprocal table are `0 <= k < P5I_COUNT`. -/
  p5iCount : Nat
  deriving DecidableEq, Repr

/-- R8: each table size is at least 1 and at most 1024, the span of the K field. -/
def TableSizes.legal (c : TableSizes) : Bool :=
  decide (1 ≤ c.p5Count ∧ c.p5Count ≤ 1024 ∧ 1 ≤ c.p5iCount ∧ c.p5iCount ≤ 1024)

/-- The defaults of R8: 326 forward entries, 342 reciprocal entries. -/
def Config.defaultSizes : TableSizes := { p5Count := 326, p5iCount := 342 }

/-- `BASE`, the system address of the register window: OPEN, no value is known of it (R41; log entry 10). -/
opaque Config.base : Nat

/-- `LATENCY`, in clock cycles, for each opcode: OPEN, finite, never observable to the host (R138; log entry 10). -/
opaque Config.latency : Byte → Nat

end Sys2Proof
end

