-- ==== Sys2Proof/Syntax.lean ====
section
/-! DEFINITION. The eight commands as syntax, one constructor per row of spec/opcode_table.json (30_encoding.md R61, R64),
and what a decoder answers (R68). -/

namespace Sys2Proof

/-- The eight mnemonics of R64. -/
inductive Mnemonic where
  | mul128 | shr128 | mod1e9 | mulsh | p5ld | p5ild | mulshp5 | mulshp5i
  deriving DecidableEq, Repr

/-- A command with the fields its opcode uses: `sh` is the SH field, `k` is the K field (R61, R62). -/
inductive Instr where
  /-- 64×64→128 multiply (R90). -/
  | mul128
  /-- 128-bit logical right shift by `sh` (R91). -/
  | shr128 (sh : BitVec 8)
  /-- 128-bit value modulo 10^9 (R92). -/
  | mod1e9
  /-- General multiply-shift by `sh` (R100). -/
  | mulsh (sh : BitVec 8)
  /-- Load forward power-of-five entry `k` (R82). -/
  | p5ld (k : BitVec 10)
  /-- Load reciprocal power-of-five entry `k` (R83). -/
  | p5ild (k : BitVec 10)
  /-- Multiply-shift by forward entry `k` (R101). -/
  | mulshp5 (sh : BitVec 8) (k : BitVec 10)
  /-- Multiply-shift by reciprocal entry `k` (R102). -/
  | mulshp5i (sh : BitVec 8) (k : BitVec 10)
  deriving DecidableEq, Repr

/-- Why a command word is rejected (60_exceptions.md R112). -/
inductive Cause where
  /-- OP is 0x00 or at least 0x09 (R65). -/
  | illegalOpcode
  /-- RSV is not 0, or SH or K is not 0 where the opcode does not use it (R66). -/
  | reservedField
  /-- K is at or beyond the size of the table the opcode reads (R60). -/
  | indexRange
  deriving DecidableEq, Repr

/-- What decoding a command word gives: a command, or exactly one cause (R67, R68). -/
inductive Decoded where
  | cmd (i : Instr)
  | rejected (c : Cause)
  deriving DecidableEq, Repr

end Sys2Proof
end

