-- ==== Sys2Proof/WellFormed.lean ====
section
/-! DEFINITION. The check a command passes beyond its field widths: the K bound of its table (spec/30_encoding.md R60, R64). -/

namespace Sys2Proof

/-- A command is well formed for given table sizes when its K is below the size of the table it reads (R60, R64). SH and
K fit their fields by their types, and an opcode that does not use a field has none. -/
def wellFormed (c : TableSizes) : Instr → Bool
  | .mul128 => true
  | .shr128 _ => true
  | .mod1e9 => true
  | .mulsh _ => true
  | .p5ld k => decide (k.toNat < c.p5Count)
  | .p5ild k => decide (k.toNat < c.p5iCount)
  | .mulshp5 _ k => decide (k.toNat < c.p5Count)
  | .mulshp5i _ k => decide (k.toNat < c.p5iCount)

end Sys2Proof
end

