-- ==== Sys2Proof/Decode.lean ====
section
/-! DEFINITION. Decoding a 64-bit command word, total, rejecting by cause (spec/30_encoding.md R60 to R68), the opcode map
and match/mask table of R64, and the encoder of R63. -/

namespace Sys2Proof

/-! ### Fields of a command word (R61) -/

/-- OP, bits 7:0. -/
def opField (v : Word) : BitVec 8 := v.extractLsb' 0 8

/-- SH, bits 15:8, an unsigned shift amount (R62). -/
def shField (v : Word) : BitVec 8 := v.extractLsb' 8 8

/-- K, bits 25:16, an unsigned table index (R62). -/
def kField (v : Word) : BitVec 10 := v.extractLsb' 16 10

/-- RSV, bits 63:26, which must be 0 (R61). -/
def rsvField (v : Word) : BitVec 38 := v.extractLsb' 26 38

/-! ### The opcode map (R64) -/

/-- The OP value of each mnemonic (R64). -/
def opcodeOf : Mnemonic → BitVec 8
  | .mul128 => 0x01
  | .shr128 => 0x02
  | .mod1e9 => 0x03
  | .mulsh => 0x04
  | .p5ld => 0x05
  | .p5ild => 0x06
  | .mulshp5 => 0x07
  | .mulshp5i => 0x08

/-- The mnemonic an OP value is assigned to; none for 0x00 and 0x09 to 0xFF (R64, R65). -/
def mnemonicOfOpcode (op : BitVec 8) : Option Mnemonic :=
  if op = 0x01 then some .mul128
  else if op = 0x02 then some .shr128
  else if op = 0x03 then some .mod1e9
  else if op = 0x04 then some .mulsh
  else if op = 0x05 then some .p5ld
  else if op = 0x06 then some .p5ild
  else if op = 0x07 then some .mulshp5
  else if op = 0x08 then some .mulshp5i
  else none

/-- The column UsesSH of R64. -/
def usesSH : Mnemonic → Bool
  | .mul128 => false
  | .shr128 => true
  | .mod1e9 => false
  | .mulsh => true
  | .p5ld => false
  | .p5ild => false
  | .mulshp5 => true
  | .mulshp5i => true

/-- The column UsesK of R64. -/
def usesK : Mnemonic → Bool
  | .mul128 => false
  | .shr128 => false
  | .mod1e9 => false
  | .mulsh => false
  | .p5ld => true
  | .p5ild => true
  | .mulshp5 => true
  | .mulshp5i => true

/-- The column "K bound" of R64: the size of the table the opcode indexes. -/
def kBound (c : TableSizes) : Mnemonic → Option Nat
  | .mul128 => none
  | .shr128 => none
  | .mod1e9 => none
  | .mulsh => none
  | .p5ld => some c.p5Count
  | .p5ild => some c.p5iCount
  | .mulshp5 => some c.p5Count
  | .mulshp5i => some c.p5iCount

/-- The column "match" of R64's second table. -/
def rowMatch : Mnemonic → Word
  | .mul128 => 0x0000000000000001
  | .shr128 => 0x0000000000000002
  | .mod1e9 => 0x0000000000000003
  | .mulsh => 0x0000000000000004
  | .p5ld => 0x0000000000000005
  | .p5ild => 0x0000000000000006
  | .mulshp5 => 0x0000000000000007
  | .mulshp5i => 0x0000000000000008

/-- The column "mask" of R64's second table. -/
def rowMask : Mnemonic → Word
  | .mul128 => 0xFFFFFFFFFFFFFFFF
  | .shr128 => 0xFFFFFFFFFFFF00FF
  | .mod1e9 => 0xFFFFFFFFFFFFFFFF
  | .mulsh => 0xFFFFFFFFFFFF00FF
  | .p5ld => 0xFFFFFFFFFC00FFFF
  | .p5ild => 0xFFFFFFFFFC00FFFF
  | .mulshp5 => 0xFFFFFFFFFC0000FF
  | .mulshp5i => 0xFFFFFFFFFC0000FF

/-- R64: a word `v` selects a row when `v AND mask = match`. -/
def selectsRow (v : Word) (m : Mnemonic) : Bool := decide (v &&& rowMask m = rowMatch m)

/-! ### Between a command and its fields -/

/-- The command a mnemonic and its two fields stand for; a field the opcode does not use is dropped, which `decode`
allows only when it is 0 (R66). -/
def instrOf (m : Mnemonic) (sh : BitVec 8) (k : BitVec 10) : Instr :=
  match m with
  | .mul128 => .mul128
  | .shr128 => .shr128 sh
  | .mod1e9 => .mod1e9
  | .mulsh => .mulsh sh
  | .p5ld => .p5ld k
  | .p5ild => .p5ild k
  | .mulshp5 => .mulshp5 sh k
  | .mulshp5i => .mulshp5i sh k

/-- The row of R64 a command belongs to. -/
def mnemonicOf : Instr → Mnemonic
  | .mul128 => .mul128
  | .shr128 _ => .shr128
  | .mod1e9 => .mod1e9
  | .mulsh _ => .mulsh
  | .p5ld _ => .p5ld
  | .p5ild _ => .p5ild
  | .mulshp5 _ _ => .mulshp5
  | .mulshp5i _ _ => .mulshp5i

/-- A command's SH field, 0 where its opcode does not use it (R66). -/
def shOf : Instr → BitVec 8
  | .mul128 => 0
  | .shr128 sh => sh
  | .mod1e9 => 0
  | .mulsh sh => sh
  | .p5ld _ => 0
  | .p5ild _ => 0
  | .mulshp5 sh _ => sh
  | .mulshp5i sh _ => sh

/-- A command's K field, 0 where its opcode does not use it (R66). -/
def kOf : Instr → BitVec 10
  | .mul128 => 0
  | .shr128 _ => 0
  | .mod1e9 => 0
  | .mulsh _ => 0
  | .p5ld k => k
  | .p5ild k => k
  | .mulshp5 _ k => k
  | .mulshp5i _ k => k

/-! ### Decode (R60, R68) -/

/-- K is at or beyond the size of the table the opcode reads: the condition of INDEX_RANGE (R60, R112). -/
def beyondTable (c : TableSizes) (m : Mnemonic) (k : BitVec 10) : Bool :=
  match kBound c m with
  | none => false
  | some n => decide (n ≤ k.toNat)

/-- A reserved bit is set, or a field the opcode does not use is not 0: the condition of RESERVED_FIELD (R66). -/
def reservedSet (m : Mnemonic) (v : Word) : Bool :=
  decide (rsvField v ≠ 0) || (decide (shField v ≠ 0) && !usesSH m) || (decide (kField v ≠ 0) && !usesK m)

/-- The decoder of R68, in the order of R60, which is the priority of the causes (R113). -/
def decode (c : TableSizes) (v : Word) : Decoded :=
  match mnemonicOfOpcode (opField v) with
  | none => .rejected .illegalOpcode
  | some m =>
    if reservedSet m v then .rejected .reservedField
    else if beyondTable c m (kField v) then .rejected .indexRange
    else .cmd (instrOf m (shField v) (kField v))

/-! ### Encode (R63) -/

/-- `Encode(op, sh, k) = op + sh * 2^8 + k * 2^16` (R63). -/
def encodeFields (op : BitVec 8) (sh : BitVec 8) (k : BitVec 10) : Word :=
  BitVec.ofNat 64 (op.toNat + sh.toNat * 2 ^ 8 + k.toNat * 2 ^ 16)

/-- The command word of a command (R63, R64). -/
def encode (i : Instr) : Word := encodeFields (opcodeOf (mnemonicOf i)) (shOf i) (kOf i)

/-! ### The host's numbering of a table word -/

/-- The command the decoder reads, at the default table sizes, from the word whose low `nbits` bits are those of `w` and
whose other bits are 0. A command word is exactly 64 bits (R61): more than 64 bits is no command word (log entry 15). -/
def decodeTableWord (nbits w : Nat) : Option Instr :=
  if 64 < nbits then none
  else
    match decode Config.defaultSizes (BitVec.ofNat 64 (w % 2 ^ nbits)) with
    | .cmd i => some i
    | .rejected _ => none

end Sys2Proof
end

