-- ==== Sys2Proof/Machine/State.lean ====
section
/-! DEFINITION. The state of the MSK block (spec/10_state.md R20, R35), the host accesses and reset events that drive it
(20_memory.md R40; 70_reset_and_hazards.md R130, R131), and the state after reset (R34). -/

namespace Sys2Proof.Machine

/-- The direction of a host access (R40). -/
inductive Dir where
  | read
  | write
  deriving DecidableEq, Repr

/-- The size of a host access in bytes: 1, 2, 4 or 8 (R40). -/
inductive AccessSize where
  | b1 | b2 | b4 | b8
  deriving DecidableEq, Repr

/-- A host access, `access(dir, off, size, wdata)` (R40). `wdata` is used only when `dir = write`. -/
structure Access where
  dir : Dir
  off : BitVec 6
  size : AccessSize
  wdata : Word
  deriving DecidableEq, Repr

/-- The kinds of bus error (R114). -/
inductive BusErrorKind where
  /-- The access size is not 8 bytes. -/
  | size
  /-- The offset is not a multiple of 8. -/
  | align
  /-- A write to RES0, RES1 or RES2. -/
  | ro
  deriving DecidableEq, Repr

/-- The response of an access (R40). -/
inductive Resp where
  | ok
  | busError (kind : BusErrorKind)
  deriving DecidableEq, Repr

/-- What the host receives for one access: the response, and the read data, which is 0 unless a read answered OK (R40). -/
structure Reply where
  resp : Resp
  rdata : Word
  deriving DecidableEq, Repr

/-- One thing the outside does to the block. There is no other: the block has no interrupt, no second port and no event
of its own (R6, R119). -/
inductive HostInput where
  /-- The host issues an access (R40). -/
  | access (a : Access)
  /-- The host issues an access and reset is asserted before its response is given (R131). -/
  | interruptedAccess (a : Access)
  /-- The `rst` input goes high, or power is lost (R130, R125). -/
  | resetAsserted
  /-- The `rst` input goes low; at power-up, the end of the power-up reset (R130). -/
  | resetReleased
  deriving DecidableEq, Repr

/-- The eight registers of the window (R41). -/
inductive WinReg where
  | opa | opb | opc | cmd | status | res0 | res1 | res2
  deriving DecidableEq, Repr

/-- The machine. The first ten fields are the whole architectural state of the block (R20); STATUS is a view of `err`,
`ecause` and `lastop` (R26) and is not stored. The last four are the model's: the `rst` level, what the host does next,
what it has received (R139), and the configuration (R8). -/
structure State where
  /-- OPA, first operand register (R22). -/
  opa : Word
  /-- OPB, second operand register (R23). -/
  opb : Word
  /-- OPC, third operand register (R24). -/
  opc : Word
  /-- CMD, the last command word written (R25). -/
  cmd : Word
  /-- ERR, the sticky rejection flag (R27). -/
  err : Bool
  /-- ECAUSE, the cause of the most recent rejection since ERR was last cleared (R28). -/
  ecause : Byte
  /-- LASTOP, the opcode of the last performed command, 0 for none (R29). -/
  lastop : Byte
  /-- RES0, the low result word (R30). -/
  res0 : Word
  /-- RES1, the middle result word (R30). -/
  res1 : Word
  /-- RES2, the high result word (R30). -/
  res2 : Word
  /-- The `rst` input is asserted (R130). -/
  inReset : Bool
  /-- What the host and the reset input do next, oldest first (log entry 1). -/
  pending : List HostInput
  /-- The replies the host has received, oldest first (R139; log entry 3). -/
  replies : List Reply
  /-- The table sizes of this block, which no step changes (R8; log entry 5). -/
  sizes : TableSizes
  deriving DecidableEq, Repr

/-- Why a step can stop with a fault. There is no constructor, and so no step faults: the block has no traps (R110), a
rejection is recorded in STATUS (R111), and a bus error is a response that changes no state (R114; log entry 4). Safe:
nothing stops. -/
inductive Fault where
  deriving DecidableEq, Repr

/-- Why a step can be refused. -/
inductive Refusal where
  /-- Raised by `exec` for an instruction that has no meaning in this model. No arm raises it: every command has its
  meaning. Safe: a refusal stops the run and claims nothing. -/
  | notModelled (mnemonic : String)
  deriving DecidableEq, Repr

/-- The state after reset (R34): every register and field 0, `rst` released, nothing issued by the host yet, the default
table sizes (R8). -/
def State.reset : State where
  opa := 0
  opb := 0
  opc := 0
  cmd := 0
  err := false
  ecause := 0
  lastop := 0
  res0 := 0
  res1 := 0
  res2 := 0
  inReset := false
  pending := []
  replies := []
  sizes := Config.defaultSizes

end Sys2Proof.Machine
end

