-- ==== Sys2Proof/Machine/Operands.lean ====
section
/-! DEFINITION. Operand assembly: wide operands from 64-bit registers, results cut into 64-bit words, byte lanes
(spec/00_scope.md R11; 20_memory.md R49, R50; 30_encoding.md R62). -/

namespace Sys2Proof.Machine

/-- `{hi, lo} = hi * 2^64 + lo` (R11). -/
def joinWords (hi lo : Word) : Nat := hi.toNat * 2 ^ 64 + lo.toNat

/-- The 128-bit operand `V = {OPB, OPA}` of SHR128 and MOD1E9 (R50, R91, R92). -/
def operandV (s : State) : Nat := joinWords s.opb s.opa

/-- The 128-bit factor `F = {OPC, OPB}` of MULSH (R50, R100). -/
def factorF (s : State) : Nat := joinWords s.opc s.opb

/-- Word `i` of a wide value, `n[64*i+63 : 64*i]`, least significant word first (R50). -/
def limb (i n : Nat) : Word := BitVec.ofNat 64 (n / 2 ^ (64 * i))

/-- Byte lane `i` of a 64-bit access carries bits `8i+7..8i` (R49). -/
def byteLane (v : Word) (i : Nat) : Byte := v.extractLsb' (8 * i) 8

/-- The 64-bit value whose byte lanes 0 to 7 are given, lane 0 the least significant (R49). -/
def wordOfLanes (l0 l1 l2 l3 l4 l5 l6 l7 : Byte) : Word := l7 ++ l6 ++ l5 ++ l4 ++ l3 ++ l2 ++ l1 ++ l0

end Sys2Proof.Machine
end

