-- ==== Sys2Proof/Machine/Flags.lean ====
section
/-! DEFINITION. The STATUS view and the cause codes (spec/10_state.md R26 to R29; 60_exceptions.md R112). The block has no
arithmetic flags (R21, R115): these are all the flags it has. -/

namespace Sys2Proof.Machine

/-- The code of a cause, as held in ECAUSE (R112). -/
def causeCode : Cause → Byte
  | .illegalOpcode => 0x01
  | .reservedField => 0x02
  | .indexRange => 0x03

/-- What a read of STATUS returns: `zext_64({LASTOP, ECAUSE, 0b0000000, ERR})` (R26). -/
def statusView (s : State) : Word :=
  (s.lastop ++ s.ecause ++ (0 : BitVec 7) ++ BitVec.ofBool s.err).setWidth 64

end Sys2Proof.Machine
end

