-- ==== Sys2Proof/Machine/Ops.lean ====
section
/-! DEFINITION. The named operations on the state: writing a result, rejecting a command (the block's nearest equivalent
of taking an exception, spec/60_exceptions.md R111, R116), clearing the rejection (its nearest equivalent of a return,
R117), storing a register, replying to the host, and reset (R34, R130). -/

namespace Sys2Proof.Machine

/-- A performed command writes RES0, RES1, RES2 and LASTOP, and nothing else (R29, R30). -/
def performed (op : Byte) (r0 r1 r2 : Word) (s : State) : State :=
  { s with res0 := r0, res1 := r1, res2 := r2, lastop := op }

/-- `reject(cause)`: ERR <- 1 and ECAUSE <- cause, and nothing else changes (R111). CMD already holds the word (R44). -/
def reject (c : Cause) (s : State) : State := { s with err := true, ecause := causeCode c }

/-- `StatusWrite(v)`: bit 0 clears ERR and ECAUSE, every other bit is ignored (R45, R117). -/
def statusWrite (v : Word) (s : State) : State :=
  if v.getLsbD 0 then { s with err := false, ecause := 0 } else s

/-- Store OPA (R22, R44). -/
def setOpa (v : Word) (s : State) : State := { s with opa := v }

/-- Store OPB (R23, R44). -/
def setOpb (v : Word) (s : State) : State := { s with opb := v }

/-- Store OPC (R24, R44). -/
def setOpc (v : Word) (s : State) : State := { s with opc := v }

/-- Store CMD: all 64 bits, whether the command then runs or is rejected (R25). -/
def setCmd (v : Word) (s : State) : State := { s with cmd := v }

/-- Give the host the reply to its access (R40, R139). -/
def giveReply (r : Reply) (s : State) : State := { s with replies := s.replies ++ [r] }

/-- Take the next input off the list of what the host does (log entry 1). -/
def dropInput (s : State) : State := { s with pending := s.pending.tail }

/-- Every piece of the block's state at its reset value (R34). The tables and their sizes are unaffected (R31), and so are
the host's own lists. -/
def clearBlock (s : State) : State :=
  { s with
    opa := 0, opb := 0, opc := 0, cmd := 0, err := false, ecause := 0, lastop := 0,
    res0 := 0, res1 := 0, res2 := 0 }

/-- `rst` goes high (R130): a command in progress is abandoned (R131) and the block is held at its reset values
(log entry 6). -/
def assertReset (s : State) : State := { clearBlock s with inReset := true }

/-- `rst` goes low: every piece of state holds its reset value (R130). -/
def releaseReset (s : State) : State := { clearBlock s with inReset := false }

end Sys2Proof.Machine
end

