-- ==== Sys2Proof/Machine/Pow5.lean ====
section
/-! DEFINITION. The power-of-five tables, computed from their formulas (spec/00_scope.md R7, R13; 40_pow5.md R80, R81), and
the meanings of P5LD and P5ILD (R82, R83). -/

namespace Sys2Proof.Machine

/-- `P5_BITCOUNT`, the precision of a table entry (R7). -/
def p5BitCount : Nat := 125

/-- `L(k)`, the bit length of `5^k` (R13). -/
def pow5Length (k : Nat) : Nat := Nat.log2 (5 ^ k) + 1

/-- The forward entry `POW5(k) = floor(5^k * 2^(125 - L(k)))` (R80): exact when `L(k) <= 125`, truncated beyond. -/
def pow5 (k : Nat) : Nat :=
  if pow5Length k ≤ p5BitCount then 5 ^ k * 2 ^ (p5BitCount - pow5Length k)
  else 5 ^ k / 2 ^ (pow5Length k - p5BitCount)

/-- The reciprocal entry `POW5INV(k) = floor(2^(L(k) - 1 + 125) / 5^k) + 1` (R81). -/
def pow5Inv (k : Nat) : Nat := 2 ^ (pow5Length k - 1 + p5BitCount) / 5 ^ k + 1

/-- P5LD (R82): the forward entry, low word first, and `L(K)` in RES2. K at or beyond `P5_COUNT` is rejected with
INDEX_RANGE and writes no result (log entry 11). -/
def execP5ld (k : BitVec 10) (s : State) : Host.Outcome State Fault Refusal :=
  if k.toNat < s.sizes.p5Count then
    .next (performed 0x05 (limb 0 (pow5 k.toNat)) (limb 1 (pow5 k.toNat)) (BitVec.ofNat 64 (pow5Length k.toNat)) s)
  else .next (reject .indexRange s)

/-- P5ILD (R83): the reciprocal entry, low word first, and `L(K)` in RES2. K at or beyond `P5I_COUNT` is rejected with
INDEX_RANGE and writes no result (log entry 11). -/
def execP5ild (k : BitVec 10) (s : State) : Host.Outcome State Fault Refusal :=
  if k.toNat < s.sizes.p5iCount then
    .next (performed 0x06 (limb 0 (pow5Inv k.toNat)) (limb 1 (pow5Inv k.toNat)) (BitVec.ofNat 64 (pow5Length k.toNat)) s)
  else .next (reject .indexRange s)

end Sys2Proof.Machine
end

