-- ==== Sys2Proof/Machine/MulShift.lean ====
section
/-! DEFINITION. The multiply-shift commands MULSH, MULSHP5 and MULSHP5I (spec/42_mulshift.md R100 to R103), computed on
unbounded naturals and cut into three 64-bit words. -/

namespace Sys2Proof.Machine

/-- `floor(m * f / 2^sh)`, exact (R103). -/
def mulShift (m f sh : Nat) : Nat := m * f / 2 ^ sh

/-- Write the whole 192-bit quotient: RES0 its low word, RES2 its high word (R50, R100). -/
def performedQuotient (op : Byte) (q : Nat) (s : State) : State := performed op (limb 0 q) (limb 1 q) (limb 2 q) s

/-- MULSH (R100): `floor(OPA * {OPC, OPB} / 2^SH)`. -/
def execMulsh (sh : BitVec 8) (s : State) : Host.Outcome State Fault Refusal :=
  .next (performedQuotient 0x04 (mulShift s.opa.toNat (factorF s) sh.toNat) s)

/-- MULSHP5 (R101): `floor(OPA * POW5(K) / 2^SH)`; OPB and OPC are not read. K at or beyond `P5_COUNT` is rejected with
INDEX_RANGE and writes no result (log entry 11). -/
def execMulshp5 (sh : BitVec 8) (k : BitVec 10) (s : State) : Host.Outcome State Fault Refusal :=
  if k.toNat < s.sizes.p5Count then
    .next (performedQuotient 0x07 (mulShift s.opa.toNat (pow5 k.toNat) sh.toNat) s)
  else .next (reject .indexRange s)

/-- MULSHP5I (R102): `floor(OPA * POW5INV(K) / 2^SH)`; OPB and OPC are not read. K at or beyond `P5I_COUNT` is rejected
with INDEX_RANGE and writes no result (log entry 11). -/
def execMulshp5i (sh : BitVec 8) (k : BitVec 10) (s : State) : Host.Outcome State Fault Refusal :=
  if k.toNat < s.sizes.p5iCount then
    .next (performedQuotient 0x08 (mulShift s.opa.toNat (pow5Inv k.toNat) sh.toNat) s)
  else .next (reject .indexRange s)

end Sys2Proof.Machine
end

