-- ==== Sys2Proof/Machine/WideArith.lean ====
section
/-! DEFINITION. The wide-arithmetic commands MUL128, SHR128 and MOD1E9 (spec/41_widearith.md R90 to R92). -/

namespace Sys2Proof.Machine

/-- MUL128 (R90): the exact 128-bit product of OPA and OPB. -/
def execMul128 (s : State) : Host.Outcome State Fault Refusal :=
  .next (performed 0x01 (limb 0 (s.opa.toNat * s.opb.toNat)) (limb 1 (s.opa.toNat * s.opb.toNat)) 0 s)

/-- SHR128 (R91): `floor({OPB, OPA} / 2^SH)`, 0 when SH is 128 or more. -/
def execShr128 (sh : BitVec 8) (s : State) : Host.Outcome State Fault Refusal :=
  .next (performed 0x02 (limb 0 (operandV s / 2 ^ sh.toNat)) (limb 1 (operandV s / 2 ^ sh.toNat)) 0 s)

/-- MOD1E9 (R92): `{OPB, OPA} mod 10^9`, exact for every 128-bit value. -/
def execMod1e9 (s : State) : Host.Outcome State Fault Refusal :=
  .next (performed 0x03 (BitVec.ofNat 64 (operandV s % 1000000000)) 0 0 s)

end Sys2Proof.Machine
end

