-- ==== Sys2Proof/Machine/Dispatch.lean ====
section
/-! DEFINITION. `Perform(op, sh, k)` of spec/30_encoding.md R60: one arm per command. -/

namespace Sys2Proof.Machine

def exec (i : Instr) (s : State) : Host.Outcome State Fault Refusal :=
  match i with
  | .mul128 => Sys2Proof.Machine.execMul128 s
  | .shr128 sh => Sys2Proof.Machine.execShr128 sh s
  | .mod1e9 => Sys2Proof.Machine.execMod1e9 s
  | .mulsh sh => Sys2Proof.Machine.execMulsh sh s
  | .p5ld k => Sys2Proof.Machine.execP5ld k s
  | .p5ild k => Sys2Proof.Machine.execP5ild k s
  | .mulshp5 sh k => Sys2Proof.Machine.execMulshp5 sh k s
  | .mulshp5i sh k => Sys2Proof.Machine.execMulshp5i sh k s

end Sys2Proof.Machine
end

