-- ==== Sys2Proof/Machine/Window.lean ====
section
/-! DEFINITION. The register window and the host access: legality checks, reads, writes, running a command word, and the
reset events (spec/20_memory.md R40 to R47; 30_encoding.md R60; 70_reset_and_hazards.md R130, R131). -/

namespace Sys2Proof.Machine

/-- The bytes of an access size (R40). -/
def sizeBytes : AccessSize → Nat
  | .b1 => 1
  | .b2 => 2
  | .b4 => 4
  | .b8 => 8

/-- The offset of a window register (R41). -/
def offsetOf : WinReg → BitVec 6
  | .opa => 0x00
  | .opb => 0x08
  | .opc => 0x10
  | .cmd => 0x18
  | .status => 0x20
  | .res0 => 0x28
  | .res1 => 0x30
  | .res2 => 0x38

/-- The window register at an offset that is a multiple of 8 (R41). Used only after the checks of R42. -/
def regAt (off : BitVec 6) : WinReg :=
  if off = 0x00 then .opa
  else if off = 0x08 then .opb
  else if off = 0x10 then .opc
  else if off = 0x18 then .cmd
  else if off = 0x20 then .status
  else if off = 0x28 then .res0
  else if off = 0x30 then .res1
  else .res2

/-- The platform presents `off = address - BASE` for an address in the window and nothing for any other (R41). -/
def presentedOffset (address : Nat) : Option (BitVec 6) :=
  if Config.base ≤ address ∧ address < Config.base + 64 then some (BitVec.ofNat 6 (address - Config.base)) else none

/-- The checks of R42, in their order; `none` is a legal access. -/
def busCheck (a : Access) : Option BusErrorKind :=
  if a.size ≠ .b8 then some .size
  else if a.off.toNat % 8 ≠ 0 then some .align
  else if a.dir = .write ∧ (a.off = 0x28 ∨ a.off = 0x30 ∨ a.off = 0x38) then some .ro
  else none

/-- What a legal read of a register returns (R41, R46). -/
def readReg (r : WinReg) (s : State) : Word :=
  match r with
  | .opa => s.opa
  | .opb => s.opb
  | .opc => s.opc
  | .cmd => s.cmd
  | .status => statusView s
  | .res0 => s.res0
  | .res1 => s.res1
  | .res2 => s.res2

/-- `Execute(v)` (R60): decode the word at this block's table sizes, then perform the command or reject it. -/
def execute (v : Word) (s : State) : Host.Outcome State Fault Refusal :=
  match decode s.sizes v with
  | .cmd i => exec i s
  | .rejected c => .next (reject c s)

/-- The effect of a legal write (R44). A write to RES0, RES1 or RES2 never comes here: R42 answers it with RO. -/
def writeReg (r : WinReg) (v : Word) (s : State) : Host.Outcome State Fault Refusal :=
  match r with
  | .opa => .next (setOpa v s)
  | .opb => .next (setOpb v s)
  | .opc => .next (setOpc v s)
  | .cmd => execute v (setCmd v s)
  | .status => .next (statusWrite v s)
  | .res0 => .next s
  | .res1 => .next s
  | .res2 => .next s

/-- Give a reply once the effect of the access is complete (R47). -/
def thenReply (r : Reply) : Host.Outcome State Fault Refusal → Host.Outcome State Fault Refusal
  | .next s => .next (giveReply r s)
  | .fault f => .fault f
  | .refused f => .refused f

/-- One host access (R40 to R46). A bus error changes no state of the block and answers data 0 (R114); a legal write
answers OK whether its command is performed or rejected (R44, R111). -/
def hostAccess (a : Access) (s : State) : Host.Outcome State Fault Refusal :=
  match busCheck a with
  | some kind => .next (giveReply { resp := .busError kind, rdata := 0 } s)
  | none =>
    match a.dir with
    | .read => .next (giveReply { resp := .ok, rdata := readReg (regAt a.off) s } s)
    | .write => thenReply { resp := .ok, rdata := 0 } (writeReg (regAt a.off) a.wdata s)

/-- What one input does. While reset is asserted the block accepts no access and gives no response (R130; log entry 7). An
access that reset interrupts has no effect and no response, and leaves the block in reset (R131; log entry 8). Releasing a
reset that is not asserted is no event (log entry 9). -/
def handleInput (e : HostInput) (s : State) : Host.Outcome State Fault Refusal :=
  match e with
  | .access a => if s.inReset then .next s else hostAccess a s
  | .interruptedAccess _ => .next (assertReset s)
  | .resetAsserted => .next (assertReset s)
  | .resetReleased => if s.inReset then .next (releaseReset s) else .next s

/-- The host's pending input is taken and acted on. With nothing pending the block does nothing and keeps all its state
(R6, R125; log entry 2). -/
def nextInput (s : State) : Host.Outcome State Fault Refusal :=
  match s.pending with
  | [] => .next s
  | e :: _ => handleInput e (dropInput s)

/-- The most clock cycles by which the block delays the response to a CMD write of this word (R47, R138). Nothing else in
the model depends on it: the host cannot observe it. -/
def waitBound (v : Word) : Nat := Config.latency (opField v)

/-- The 8-byte write of a word to CMD: `HostWrite(0x18, 8, v)` (R25, R40). -/
def cmdWrite (v : Word) : Access := { dir := .write, off := 0x18, size := .b8, wdata := v }

end Sys2Proof.Machine
end

