-- ==== Sys2Proof/Machine/Step.lean ====
section
/-! DEFINITION. One step of the machine: one host access or one reset event (spec/20_memory.md R47, R51). -/

namespace Sys2Proof.Machine

/-- One step: the oldest pending input, complete (R47, R51). -/
def step (s : State) : Host.Outcome State Fault Refusal := nextInput s

/-- `s` with the host's next act set to the 8-byte CMD write of the word whose low `nbits` bits are those of `w`. The block
fetches nothing: a command acts when it is written to CMD (R53), and it accepts a write only out of reset (R130), so these
are the two fields this takes (log entry 12). -/
def State.withFetchWord (s : State) (nbits w : Nat) : State :=
  { s with
    inReset := false,
    pending := .access (cmdWrite (BitVec.ofNat 64 (w % 2 ^ nbits))) :: s.pending }

end Sys2Proof.Machine
end

