-- ==== Sys2Proof/Machine/Assembler.lean ====
section
/-! DEFINITION. The assembler syntax of host programs: statements, pseudo-instructions, their accesses, and the reading of
a program's text (spec/30_encoding.md R69, R70). What the assembler refuses has no accesses. -/

namespace Sys2Proof.Machine

/-- The statements of R69. -/
inductive Stmt where
  /-- `wr R, imm` -/
  | wr (r : WinReg) (imm : Nat)
  /-- `rd R` -/
  | rd (r : WinReg)
  /-- `cmd MNEMONIC [sh=n] [k=n]`; `none` is an omitted field. -/
  | cmd (m : Mnemonic) (sh k : Option Nat)
  /-- `cmdw imm` -/
  | cmdw (imm : Nat)
  /-- `rdx off, n` -/
  | rdx (off n : Nat)
  /-- `wrx off, n, imm` -/
  | wrx (off n imm : Nat)
  deriving DecidableEq, Repr

/-- The pseudo-instructions of R70. -/
inductive Pseudo where
  | mul128 (a b : Nat)
  | shr128 (hi lo n : Nat)
  | mod1e9 (hi lo : Nat)
  | mulsh (m fhi flo n : Nat)
  | p5ld (k : Nat)
  | p5ild (k : Nat)
  | mulshp5 (m k n : Nat)
  | mulshp5i (m k n : Nat)
  | rdres
  | clrerr
  deriving DecidableEq, Repr

/-- One line of a program: empty (a comment counts as nothing), a statement, or a pseudo-instruction (R69, R70). -/
inductive Line where
  | empty
  | stmt (s : Stmt)
  | pseudo (p : Pseudo)
  deriving DecidableEq, Repr

/-! ### Statements as accesses (R69) -/

/-- A value that fits a 64-bit word; the assembler refuses one that does not (R69). -/
def wordOf (n : Nat) : Option Word := if n < 2 ^ 64 then some (BitVec.ofNat 64 n) else none

/-- A field value that fits `w` bits; an omitted field is 0, and a field the opcode does not use is refused (R69). -/
def fieldOf (w : Nat) (used : Bool) (n : Option Nat) : Option (BitVec w) :=
  match n with
  | none => some 0
  | some n => if used ∧ n < 2 ^ w then some (BitVec.ofNat w n) else none

/-- An access size in bytes; only 1, 2, 4 and 8 are sizes of an access (R40). -/
def sizeOfBytes (n : Nat) : Option AccessSize :=
  if n = 1 then some .b1 else if n = 2 then some .b2 else if n = 4 then some .b4 else if n = 8 then some .b8 else none

/-- An offset into the 64-byte window (R40). -/
def offsetOfNat (n : Nat) : Option (BitVec 6) := if n < 64 then some (BitVec.ofNat 6 n) else none

/-- The registers `wr` names: OPA, OPB, OPC and STATUS (R69). -/
def wrAllowed : WinReg → Bool
  | .opa => true
  | .opb => true
  | .opc => true
  | .cmd => false
  | .status => true
  | .res0 => false
  | .res1 => false
  | .res2 => false

/-- The access of a statement, or `none` where the assembler refuses it (R69). -/
def assembleStmt : Stmt → Option Access
  | .wr r imm =>
    if wrAllowed r then (wordOf imm).map fun v => { dir := .write, off := offsetOf r, size := .b8, wdata := v } else none
  | .rd r => some { dir := .read, off := offsetOf r, size := .b8, wdata := 0 }
  | .cmd m sh k =>
    match fieldOf 8 (usesSH m) sh, fieldOf 10 (usesK m) k with
    | some sh, some k => some (cmdWrite (encodeFields (opcodeOf m) sh k))
    | _, _ => none
  | .cmdw imm => (wordOf imm).map cmdWrite
  | .rdx off n =>
    match offsetOfNat off, sizeOfBytes n with
    | some off, some size => some { dir := .read, off := off, size := size, wdata := 0 }
    | _, _ => none
  | .wrx off n imm =>
    match offsetOfNat off, sizeOfBytes n, wordOf imm with
    | some off, some size, some v => some { dir := .write, off := off, size := size, wdata := v }
    | _, _, _ => none

/-- The expansion of a pseudo-instruction (R70). -/
def expandPseudo : Pseudo → List Stmt
  | .mul128 a b => [.wr .opa a, .wr .opb b, .cmd .mul128 none none]
  | .shr128 hi lo n => [.wr .opa lo, .wr .opb hi, .cmd .shr128 (some n) none]
  | .mod1e9 hi lo => [.wr .opa lo, .wr .opb hi, .cmd .mod1e9 none none]
  | .mulsh m fhi flo n => [.wr .opa m, .wr .opb flo, .wr .opc fhi, .cmd .mulsh (some n) none]
  | .p5ld k => [.cmd .p5ld none (some k)]
  | .p5ild k => [.cmd .p5ild none (some k)]
  | .mulshp5 m k n => [.wr .opa m, .cmd .mulshp5 (some n) (some k)]
  | .mulshp5i m k n => [.wr .opa m, .cmd .mulshp5i (some n) (some k)]
  | .rdres => [.rd .res0, .rd .res1, .rd .res2]
  | .clrerr => [.wr .status 1]

/-- The accesses of a list of statements; one refused statement refuses the whole. -/
def assembleStmts : List Stmt → Option (List Access)
  | [] => some []
  | s :: ss =>
    match assembleStmt s, assembleStmts ss with
    | some a, some as => some (a :: as)
    | _, _ => none

/-- The accesses of one line (R69, R70). -/
def assembleLine : Line → Option (List Access)
  | .empty => some []
  | .stmt s => assembleStmts [s]
  | .pseudo p => assembleStmts (expandPseudo p)

/-- The accesses of a program, one line after another (R69). -/
def assembleLines : List Line → Option (List Access)
  | [] => some []
  | l :: ls =>
    match assembleLine l, assembleLines ls with
    | some a, some as => some (a ++ as)
    | _, _ => none

/-! ### Reading a program's text (R69; log entry 14) -/

/-- Put a character before the first piece. -/
def pushChar (c : Char) : List (List Char) → List (List Char)
  | [] => [[c]]
  | p :: ps => (c :: p) :: ps

/-- The lines of a text. -/
def splitLines : List Char → List (List Char)
  | [] => [[]]
  | c :: cs => if c = '\n' then [] :: splitLines cs else pushChar c (splitLines cs)

/-- A line without its comment: `;` starts a comment (R69). -/
def stripComment (cs : List Char) : List Char := cs.takeWhile fun c => decide (c ≠ ';')

/-- The pieces of a line between blanks, a comma being a piece of its own; some pieces may be empty. -/
def pieces : List Char → List (List Char)
  | [] => [[]]
  | c :: cs =>
    if c = ' ' ∨ c = '\t' ∨ c = '\r' then [] :: pieces cs
    else if c = ',' then [] :: [','] :: pieces cs
    else pushChar c (pieces cs)

/-- The tokens of a line. -/
def tokens (cs : List Char) : List (List Char) := (pieces (stripComment cs)).filter fun p => !p.isEmpty

/-- The value of a digit character in base 16. -/
def digitValue (c : Char) : Option Nat :=
  if '0' ≤ c ∧ c ≤ '9' then some (c.toNat - '0'.toNat)
  else if 'a' ≤ c ∧ c ≤ 'f' then some (c.toNat - 'a'.toNat + 10)
  else if 'A' ≤ c ∧ c ≤ 'F' then some (c.toNat - 'A'.toNat + 10)
  else none

/-- Read digits in a base onto an accumulated value; `_` separates digit groups and has no value (R11). -/
def readDigits (base : Nat) : List Char → Nat → Option Nat
  | [], n => some n
  | c :: cs, n =>
    if c = '_' then readDigits base cs n
    else
      match digitValue c with
      | some d => if d < base then readDigits base cs (n * base + d) else none
      | none => none

/-- A decimal or `0x` hexadecimal number (R69). It has a digit. -/
def readNumber : List Char → Option Nat
  | '0' :: 'x' :: cs => if cs.any fun c => (digitValue c).isSome then readDigits 16 cs 0 else none
  | cs => if cs.any fun c => (digitValue c).isSome then readDigits 10 cs 0 else none

/-- A register's name (R41). -/
def readReg? (t : List Char) : Option WinReg :=
  if t = ['O', 'P', 'A'] then some .opa
  else if t = ['O', 'P', 'B'] then some .opb
  else if t = ['O', 'P', 'C'] then some .opc
  else if t = ['C', 'M', 'D'] then some .cmd
  else if t = ['S', 'T', 'A', 'T', 'U', 'S'] then some .status
  else if t = ['R', 'E', 'S', '0'] then some .res0
  else if t = ['R', 'E', 'S', '1'] then some .res1
  else if t = ['R', 'E', 'S', '2'] then some .res2
  else none

/-- A command's mnemonic (R64). -/
def readMnemonic (t : List Char) : Option Mnemonic :=
  if t = ['M', 'U', 'L', '1', '2', '8'] then some .mul128
  else if t = ['S', 'H', 'R', '1', '2', '8'] then some .shr128
  else if t = ['M', 'O', 'D', '1', 'E', '9'] then some .mod1e9
  else if t = ['M', 'U', 'L', 'S', 'H'] then some .mulsh
  else if t = ['P', '5', 'L', 'D'] then some .p5ld
  else if t = ['P', '5', 'I', 'L', 'D'] then some .p5ild
  else if t = ['M', 'U', 'L', 'S', 'H', 'P', '5'] then some .mulshp5
  else if t = ['M', 'U', 'L', 'S', 'H', 'P', '5', 'I'] then some .mulshp5i
  else none

/-- Numbers separated by commas. -/
def readNumbers : List (List Char) → Option (List Nat)
  | [] => some []
  | [t] => (readNumber t).map fun n => [n]
  | t :: c :: rest =>
    if c = [','] then
      match readNumber t, readNumbers rest with
      | some n, some (m :: ms) => some (n :: m :: ms)
      | _, _ => none
    else none

/-- The optional fields `[sh=n] [k=n]` of `cmd`, in that order (R69). -/
def readFields (ts : List (List Char)) : Option (Option Nat × Option Nat) :=
  match ts with
  | [] => some (none, none)
  | [('s' :: 'h' :: '=' :: n)] => (readNumber n).map fun n => (some n, none)
  | [('k' :: '=' :: n)] => (readNumber n).map fun n => (none, some n)
  | [('s' :: 'h' :: '=' :: a), ('k' :: '=' :: b)] =>
    match readNumber a, readNumber b with
    | some a, some b => some (some a, some b)
    | _, _ => none
  | _ => none

/-- A statement from its first word and the rest (R69). -/
def readStmt (w : List Char) (ts : List (List Char)) : Option Stmt :=
  if w = ['w', 'r'] then
    match ts with
    | [r, [','], n] =>
      match readReg? r, readNumber n with
      | some r, some n => some (.wr r n)
      | _, _ => none
    | _ => none
  else if w = ['r', 'd'] then
    match ts with
    | [r] => (readReg? r).map .rd
    | _ => none
  else if w = ['c', 'm', 'd'] then
    match ts with
    | m :: fs =>
      match readMnemonic m, readFields fs with
      | some m, some (sh, k) => some (.cmd m sh k)
      | _, _ => none
    | [] => none
  else if w = ['c', 'm', 'd', 'w'] then
    match readNumbers ts with
    | some [n] => some (.cmdw n)
    | _ => none
  else if w = ['r', 'd', 'x'] then
    match readNumbers ts with
    | some [off, n] => some (.rdx off n)
    | _ => none
  else if w = ['w', 'r', 'x'] then
    match readNumbers ts with
    | some [off, n, v] => some (.wrx off n v)
    | _ => none
  else none

/-- A pseudo-instruction from its first word and its operands (R70). -/
def readPseudo (w : List Char) (ns : List Nat) : Option Pseudo :=
  match ns with
  | [] => if w = ['r', 'd', 'r', 'e', 's'] then some .rdres else if w = ['c', 'l', 'r', 'e', 'r', 'r'] then some .clrerr else none
  | [a] => if w = ['p', '5', 'l', 'd'] then some (.p5ld a) else if w = ['p', '5', 'i', 'l', 'd'] then some (.p5ild a) else none
  | [a, b] =>
    if w = ['m', 'u', 'l', '1', '2', '8'] then some (.mul128 a b)
    else if w = ['m', 'o', 'd', '1', 'e', '9'] then some (.mod1e9 a b)
    else none
  | [a, b, c] =>
    if w = ['s', 'h', 'r', '1', '2', '8'] then some (.shr128 a b c)
    else if w = ['m', 'u', 'l', 's', 'h', 'p', '5'] then some (.mulshp5 a b c)
    else if w = ['m', 'u', 'l', 's', 'h', 'p', '5', 'i'] then some (.mulshp5i a b c)
    else none
  | [a, b, c, d] => if w = ['m', 'u', 'l', 's', 'h'] then some (.mulsh a b c d) else none
  | _ => none

/-- One line of a program, or `none` where it is neither empty, a statement nor a pseudo-instruction (R69, R70). -/
def readLine (cs : List Char) : Option Line :=
  match tokens cs with
  | [] => some .empty
  | w :: ts =>
    match readStmt w ts with
    | some s => some (.stmt s)
    | none =>
      match readNumbers ts with
      | some ns => (readPseudo w ns).map .pseudo
      | none => none

/-- The lines of a program's text. -/
def readLines : List (List Char) → Option (List Line)
  | [] => some []
  | l :: ls =>
    match readLine l, readLines ls with
    | some a, some as => some (a :: as)
    | _, _ => none

/-- The accesses of a program's text, or `none` where the assembler refuses it (R69, R70). -/
def assembleText (cs : List Char) : Option (List Access) :=
  match readLines (splitLines cs) with
  | some ls => assembleLines ls
  | none => none

/-- The host about to run a program: its accesses are all the host does next (R139). -/
def withProgram (s : State) (as : List Access) : State := { s with pending := as.map .access }

end Sys2Proof.Machine
end

