-- ==== Sys2Proof/Machine/Signals.lean ====
section
/-! DEFINITION. The signal-level realisation of the host access, as spec/20_memory.md R56 lists it for reference. The
normative interface is the transaction of R40; nothing else in the model depends on this file. -/

namespace Sys2Proof.Machine

/-- The request signals: `req_valid`, `req_we`, `req_addr`, `req_size`, `req_wdata` (R56). -/
structure RequestSignals where
  valid : Bool
  we : Bool
  addr : BitVec 6
  size : BitVec 2
  wdata : Word
  deriving DecidableEq, Repr

/-- The response signals: `rsp_valid`, `rsp_err`, `rsp_kind`, `rsp_rdata` (R56). -/
structure ResponseSignals where
  valid : Bool
  err : Bool
  kind : BitVec 2
  rdata : Word
  deriving DecidableEq, Repr

/-- `req_size`: 0 is 1 byte, 1 is 2, 2 is 4, 3 is 8 (R56). -/
def sizeOfCode (c : BitVec 2) : AccessSize :=
  if c = 0 then .b1 else if c = 1 then .b2 else if c = 2 then .b4 else .b8

/-- `rsp_kind`: 0 is none, 1 is SIZE, 2 is ALIGN, 3 is RO (R56). -/
def kindCode : Resp → BitVec 2
  | .ok => 0
  | .busError .size => 1
  | .busError .align => 2
  | .busError .ro => 3

/-- The access a request presents; none while `req_valid` is low (R56). -/
def requestAccess (q : RequestSignals) : Option Access :=
  if q.valid then
    some { dir := if q.we then .write else .read, off := q.addr, size := sizeOfCode q.size, wdata := q.wdata }
  else none

/-- The response signals that carry a reply; `rsp_err` is 1 for a bus error (R56). -/
def replySignals (r : Reply) : ResponseSignals :=
  { valid := true, err := decide (r.resp ≠ .ok), kind := kindCode r.resp, rdata := r.rdata }

/-- The reset event of a change of the `rst` level, active high (R56, R130). -/
def rstEvent (before now : Bool) : Option HostInput :=
  match before, now with
  | false, true => some .resetAsserted
  | true, false => some .resetReleased
  | false, false => none
  | true, true => none

end Sys2Proof.Machine
end

