-- ==== Sys2Proof/Safety.lean ====
section
/-! DEFINITION. The terms the statements use: what a state of the block keeps, what its fields mean together, and when a run
has ended (spec/10_state.md R26 to R34; 70_reset_and_hazards.md R139, R140). -/

namespace Sys2Proof.Machine

/-- The 192-bit result `{RES2, RES1, RES0}` as a number (R30, R50). -/
def resultValue (s : State) : Nat := s.res2.toNat * 2 ^ 128 + s.res1.toNat * 2 ^ 64 + s.res0.toNat

/-- A performed command's frame: everything but RES0, RES1, RES2 and LASTOP is as before (R22 to R30). -/
structure KeepsAllButResult (s t : State) : Prop where
  opa : t.opa = s.opa
  opb : t.opb = s.opb
  opc : t.opc = s.opc
  cmd : t.cmd = s.cmd
  err : t.err = s.err
  ecause : t.ecause = s.ecause
  inReset : t.inReset = s.inReset
  pending : t.pending = s.pending
  replies : t.replies = s.replies
  sizes : t.sizes = s.sizes

/-- Every piece of the block's own state is as before (R20): "changes no state". -/
structure KeepsBlock (s t : State) : Prop where
  opa : t.opa = s.opa
  opb : t.opb = s.opb
  opc : t.opc = s.opc
  cmd : t.cmd = s.cmd
  err : t.err = s.err
  ecause : t.ecause = s.ecause
  lastop : t.lastop = s.lastop
  res0 : t.res0 = s.res0
  res1 : t.res1 = s.res1
  res2 : t.res2 = s.res2

/-- Every piece of the block's state is at its reset value (R34). -/
structure AtResetValues (s : State) : Prop where
  opa : s.opa = 0
  opb : s.opb = 0
  opc : s.opc = 0
  cmd : s.cmd = 0
  err : s.err = false
  ecause : s.ecause = 0
  lastop : s.lastop = 0
  res0 : s.res0 = 0
  res1 : s.res1 = 0
  res2 : s.res2 = 0

/-- The legal values of the STATUS fields: ECAUSE is 0x00 exactly when ERR is 0 and never above 0x03 (R28), and LASTOP is
0x00 or an assigned opcode (R29). -/
structure StatusLegal (s : State) : Prop where
  causeOfErr : s.ecause = 0 ↔ s.err = false
  causeRange : s.ecause.toNat ≤ 3
  lastopRange : s.lastop.toNat ≤ 8

/-- While reset is asserted, every piece of the block's state is at its reset value (log entry 6). -/
def ClearedInReset (s : State) : Prop := s.inReset = true → AtResetValues s

/-- What LASTOP tells of the results: the ranges that the rule of each command gives its result words, and the reset values
when no command has been performed since reset (R29, R34, R82, R83, R86, R90 to R92, R100 to R102). -/
structure ResultFitsLastop (s : State) : Prop where
  none : s.lastop = 0x00 → s.res0 = 0 ∧ s.res1 = 0 ∧ s.res2 = 0
  mul128 : s.lastop = 0x01 → resultValue s ≤ (2 ^ 64 - 1) ^ 2
  shr128 : s.lastop = 0x02 → s.res2 = 0
  mod1e9 : s.lastop = 0x03 → s.res0.toNat ≤ 999999999 ∧ s.res1 = 0 ∧ s.res2 = 0
  mulsh : s.lastop = 0x04 → resultValue s ≤ (2 ^ 64 - 1) * (2 ^ 128 - 1)
  p5ld : s.lastop = 0x05 →
    2 ^ 124 ≤ joinWords s.res1 s.res0 ∧ joinWords s.res1 s.res0 < 2 ^ 125 ∧ 1 ≤ s.res2.toNat ∧ s.res2.toNat ≤ 2376
  p5ild : s.lastop = 0x06 →
    2 ^ 124 < joinWords s.res1 s.res0 ∧ joinWords s.res1 s.res0 ≤ 2 ^ 125 + 1 ∧ 1 ≤ s.res2.toNat ∧ s.res2.toNat ≤ 2376
  mulshp5 : s.lastop = 0x07 → resultValue s < 2 ^ 189
  mulshp5i : s.lastop = 0x08 → resultValue s < 2 ^ 190

/-! ### A command word read as numbers (spec/30_encoding.md R61), the words the statements use -/

/-- OP, bits 7:0. -/
def opBits (v : Word) : Nat := v.toNat % 2 ^ 8

/-- SH, bits 15:8. -/
def shBits (v : Word) : Nat := v.toNat / 2 ^ 8 % 2 ^ 8

/-- K, bits 25:16. -/
def kBits (v : Word) : Nat := v.toNat / 2 ^ 16 % 2 ^ 10

/-- RSV, bits 63:26. -/
def rsvBits (v : Word) : Nat := v.toNat / 2 ^ 26

/-- The condition of ILLEGAL_OPCODE: OP is 0x00 or at least 0x09 (R65, R112). -/
def OpIllegal (v : Word) : Prop := opBits v = 0 ∨ 9 ≤ opBits v

/-- The condition of RESERVED_FIELD: RSV is not 0; SH is not 0 for MUL128, MOD1E9, P5LD, P5ILD; K is not 0 for MUL128,
SHR128, MOD1E9, MULSH (R66, R112). -/
def ReservedNonzero (v : Word) : Prop :=
  rsvBits v ≠ 0 ∨ (shBits v ≠ 0 ∧ opBits v ∈ [1, 3, 5, 6]) ∨ (kBits v ≠ 0 ∧ opBits v ∈ [1, 2, 3, 4])

/-- The condition of INDEX_RANGE: K >= P5_COUNT for P5LD and MULSHP5, K >= P5I_COUNT for P5ILD and MULSHP5I (R60, R112). -/
def IndexBeyond (c : TableSizes) (v : Word) : Prop :=
  (opBits v ∈ [5, 7] ∧ c.p5Count ≤ kBits v) ∨ (opBits v ∈ [6, 8] ∧ c.p5iCount ≤ kBits v)

/-- The column "operands read" of R64. -/
def operandsRead : Mnemonic → List WinReg
  | .mul128 => [.opa, .opb]
  | .shr128 => [.opa, .opb]
  | .mod1e9 => [.opa, .opb]
  | .mulsh => [.opa, .opb, .opc]
  | .p5ld => []
  | .p5ild => []
  | .mulshp5 => [.opa]
  | .mulshp5i => [.opa]

/-- The next input is an event of the reset input: asserted, asserted during an access, or released while asserted (R130,
R131). -/
def ResetEvent (s : State) : Prop :=
  ∃ rest, s.pending = .resetAsserted :: rest ∨ (∃ a, s.pending = .interruptedAccess a :: rest) ∨
    (s.inReset = true ∧ s.pending = .resetReleased :: rest)

/-- The next input is the access `a` and the block accepts it: `rst` is released (R130). -/
structure Presents (s : State) (a : Access) (rest : List HostInput) : Prop where
  released : s.inReset = false
  pending : s.pending = .access a :: rest

/-- A host program has ended: every access of it has been taken (R139). -/
def ended (s : State) : Bool := s.pending.isEmpty

end Sys2Proof.Machine
end

