-- ==== Sys2Proof/Certificates/Slice0/Obligations.lean ====
section
/-! DEFINITION. The statements for the provers, from the numbered rules of spec/. -/

open Sys2Proof Sys2Proof.Machine

/-! ### Encoding and decoding -/

/-- Decode of encode is the identity on every well-formed command, whatever the table sizes (30_encoding.md R60, R63). -/
def Obligations.DecodeOfEncodeIsIdentity : Prop :=
  ∀ (c : TableSizes) (i : Instr), wellFormed c i = true → decode c (encode i) = .cmd i

/-- A word that decodes to a command is that command's one word, and the command is well formed (30_encoding.md R60, R67). -/
def Obligations.EncodeOfDecodeIsIdentity : Prop :=
  ∀ (c : TableSizes) (v : Word) (i : Instr), decode c v = .cmd i → encode i = v ∧ wellFormed c i = true

/-- R63: Encode is the sum of its shifted fields, with the rule's three examples. (That RSV is 0, which the rule marks
`[derived]`, is `EncodedWordHoldsItsFields`.) -/
def Obligations.EncodeIsSumOfFields : Prop :=
  (∀ (op sh : BitVec 8) (k : BitVec 10),
    (encodeFields op sh k).toNat = op.toNat + sh.toNat * 2 ^ 8 + k.toNat * 2 ^ 16) ∧
  encode .mul128 = 0x0000000000000001 ∧ encode (.shr128 64) = 0x0000000000004002 ∧
  encode (.mulshp5 100 27) = 0x00000000001B6407

/-- An encoded word holds its three fields at the places of the format and has RSV = 0: an inference, the sentence of the
encoding file that it marks `[derived: from rule R61]`. -/
def Obligations.EncodedWordHoldsItsFields : Prop :=
  ∀ (op sh : BitVec 8) (k : BitVec 10),
    opBits (encodeFields op sh k) = op.toNat ∧ shBits (encodeFields op sh k) = sh.toNat ∧
    kBits (encodeFields op sh k) = k.toNat ∧ rsvBits (encodeFields op sh k) = 0

/-- R65 and R66: which words are rejected for their opcode and which for a reserved field, whatever the table sizes. -/
def Obligations.IllegalAndReservedWordsRejected : Prop :=
  ∀ (c : TableSizes) (v : Word),
    (OpIllegal v ↔ decode c v = .rejected .illegalOpcode) ∧
    (¬ OpIllegal v ∧ ReservedNonzero v ↔ decode c v = .rejected .reservedField) ∧
    decode c 0 = .rejected .illegalOpcode

/-- R64: the match/mask table selects at most one row for a word; a word that selects a row is its command, with the word's
own OP, SH and K, but for the K bound; and a word that selects no row is rejected for its opcode or a reserved field. -/
def Obligations.MatchMaskTableAgreesWithDecode : Prop :=
  ∀ (c : TableSizes) (v : Word),
    (∀ m m', selectsRow v m = true → selectsRow v m' = true → m = m') ∧
    (∀ m, selectsRow v m = true →
      (IndexBeyond c v → decode c v = .rejected .indexRange) ∧
      (¬ IndexBeyond c v → ∃ i, decode c v = .cmd i ∧ mnemonicOf i = m ∧ (opcodeOf m).toNat = opBits v ∧
        (shOf i).toNat = shBits v ∧ (kOf i).toNat = kBits v)) ∧
    ((∀ m, selectsRow v m = false) →
      decode c v = .rejected .illegalOpcode ∨ decode c v = .rejected .reservedField)

/-- R60: Execute(v) checks the opcode, then the reserved fields, then the index, and only then performs; a performed command
writes its opcode to LASTOP. -/
def Obligations.ExecuteChecksInOrder : Prop :=
  ∀ (s : State) (v : Word),
    (OpIllegal v → execute v s = .next { s with err := true, ecause := 0x01 }) ∧
    (¬ OpIllegal v → ReservedNonzero v → execute v s = .next { s with err := true, ecause := 0x02 }) ∧
    (¬ OpIllegal v → ¬ ReservedNonzero v → IndexBeyond s.sizes v →
      execute v s = .next { s with err := true, ecause := 0x03 }) ∧
    (¬ OpIllegal v → ¬ ReservedNonzero v → ¬ IndexBeyond s.sizes v →
      ∃ i t, (opcodeOf (mnemonicOf i)).toNat = opBits v ∧ (shOf i).toNat = shBits v ∧ (kOf i).toNat = kBits v ∧
        exec i s = .next t ∧ execute v s = .next t ∧ t.lastop.toNat = opBits v ∧ KeepsAllButResult s t)

/-- One word of each row, written out from R61 and R64, decodes to its command (sanity). -/
def Obligations.SpecWordsDecode : Prop :=
  decode Config.defaultSizes 0x0000000000000001 = .cmd .mul128 ∧
  decode Config.defaultSizes 0x0000000000006402 = .cmd (.shr128 100) ∧
  decode Config.defaultSizes 0x0000000000000003 = .cmd .mod1e9 ∧
  decode Config.defaultSizes 0x000000000000BF04 = .cmd (.mulsh 191) ∧
  decode Config.defaultSizes 0x0000000001450005 = .cmd (.p5ld 325) ∧
  decode Config.defaultSizes 0x0000000001550006 = .cmd (.p5ild 341) ∧
  decode Config.defaultSizes 0x000000000145BC07 = .cmd (.mulshp5 188 325) ∧
  decode Config.defaultSizes 0x000000000010A208 = .cmd (.mulshp5i 162 16)

/-! ### Reset -/

/-- R34: after reset every register and field is 0 and STATUS reads 0. A reset from any state, asserted and then released, and
the release of a reset that is asserted already, leave the same values, and the table sizes, the replies and the later inputs
as they were. -/
def Obligations.ResetLeavesEveryRegisterZero : Prop :=
  AtResetValues State.reset ∧ statusView State.reset = 0 ∧
  (∀ (s : State) (rest : List HostInput), s.pending = .resetAsserted :: .resetReleased :: rest →
    ∃ t u, step s = .next t ∧ t.inReset = true ∧ step t = .next u ∧ AtResetValues u ∧ statusView u = 0 ∧
      u.inReset = false ∧ u.sizes = s.sizes ∧ u.replies = s.replies ∧ u.pending = rest) ∧
  (∀ (s : State) (rest : List HostInput), s.inReset = true → s.pending = .resetReleased :: rest →
    ∃ t, step s = .next t ∧ AtResetValues t ∧ statusView t = 0 ∧ t.inReset = false ∧ t.sizes = s.sizes ∧
      t.replies = s.replies ∧ t.pending = rest)

/-- R130: while reset is asserted the block accepts no access (nothing of its state changes and no response is given); when
it is released every piece of state holds its reset value. -/
def Obligations.NoAccessAcceptedInReset : Prop :=
  ∀ (s : State) (rest : List HostInput), s.inReset = true →
    (∀ a, s.pending = .access a :: rest →
      ∃ t, step s = .next t ∧ KeepsBlock s t ∧ t.replies = s.replies ∧ t.inReset = true) ∧
    (s.pending = .resetReleased :: rest →
      ∃ t, step s = .next t ∧ AtResetValues t ∧ t.inReset = false ∧ t.replies = s.replies ∧ t.pending = rest ∧
        t.sizes = s.sizes)

/-- R131: an access that reset interrupts gets no response, and after the release no partial result of it remains. -/
def Obligations.ResetAbandonsAccess : Prop :=
  ∀ (s : State) (a : Access) (rest : List HostInput),
    s.pending = .interruptedAccess a :: .resetReleased :: rest →
    ∃ t u, step s = .next t ∧ t.replies = s.replies ∧ step t = .next u ∧ u.replies = s.replies ∧ AtResetValues u ∧
      u.inReset = false ∧ u.pending = rest

/-- While reset is asserted the model holds the block at its reset values, at every step and at reset itself. The model's
choice (log entry 6): the spec gives no value while `rst` is high. -/
def Obligations.ResetHoldsBlockCleared : Prop :=
  ClearedInReset State.reset ∧ ∀ s t : State, ClearedInReset s → step s = .next t → ClearedInReset t

/-! ### Host accesses -/

/-- R42, R43 and R114: SIZE, then ALIGN, then RO; the first that fails is the response, with data 0 and no state changed;
any other access answers OK. -/
def Obligations.BusErrorsInOrder : Prop :=
  ∀ (s : State) (a : Access) (rest : List HostInput), Presents s a rest →
    (a.size ≠ .b8 →
      step s = .next { s with pending := rest, replies := s.replies ++ [⟨.busError .size, 0⟩] }) ∧
    (a.size = .b8 → a.off.toNat % 8 ≠ 0 →
      step s = .next { s with pending := rest, replies := s.replies ++ [⟨.busError .align, 0⟩] }) ∧
    (a.size = .b8 → a.off.toNat % 8 = 0 → a.dir = .write → 0x28 ≤ a.off.toNat →
      step s = .next { s with pending := rest, replies := s.replies ++ [⟨.busError .ro, 0⟩] }) ∧
    (a.size = .b8 → a.off.toNat % 8 = 0 → (a.dir = .read ∨ a.off.toNat < 0x28) →
      ∃ t rdata, step s = .next t ∧ t.replies = s.replies ++ [⟨.ok, rdata⟩] ∧ t.pending = rest)

/-- R44 and R45: the effect of a legal write at each offset, with the response OK whatever a command word does. -/
def Obligations.LegalWriteEffects : Prop :=
  ∀ (s : State) (v : Word) (rest : List HostInput),
    (Presents s ⟨.write, 0x00, .b8, v⟩ rest →
      step s = .next { s with opa := v, pending := rest, replies := s.replies ++ [⟨.ok, 0⟩] }) ∧
    (Presents s ⟨.write, 0x08, .b8, v⟩ rest →
      step s = .next { s with opb := v, pending := rest, replies := s.replies ++ [⟨.ok, 0⟩] }) ∧
    (Presents s ⟨.write, 0x10, .b8, v⟩ rest →
      step s = .next { s with opc := v, pending := rest, replies := s.replies ++ [⟨.ok, 0⟩] }) ∧
    (Presents s ⟨.write, 0x18, .b8, v⟩ rest →
      ∃ t, execute v { s with cmd := v, pending := rest } = .next t ∧
        step s = .next { t with replies := s.replies ++ [⟨.ok, 0⟩] }) ∧
    (Presents s ⟨.write, 0x20, .b8, v⟩ rest →
      (v.toNat % 2 = 1 →
        step s = .next { s with err := false, ecause := 0, pending := rest, replies := s.replies ++ [⟨.ok, 0⟩] }) ∧
      (v.toNat % 2 = 0 → step s = .next { s with pending := rest, replies := s.replies ++ [⟨.ok, 0⟩] }))

/-- R46: a legal read returns the register at its offset and changes no state. -/
def Obligations.LegalReadReturnsRegister : Prop :=
  ∀ (s : State) (off : BitVec 6) (w : Word) (rest : List HostInput), Presents s ⟨.read, off, .b8, w⟩ rest →
    ∀ value : Word,
      (off = 0x00 ∧ value = s.opa) ∨ (off = 0x08 ∧ value = s.opb) ∨ (off = 0x10 ∧ value = s.opc) ∨
      (off = 0x18 ∧ value = s.cmd) ∨
      (off = 0x20 ∧ value.toNat = s.lastop.toNat * 2 ^ 16 + s.ecause.toNat * 2 ^ 8 + (if s.err then 1 else 0)) ∨
      (off = 0x28 ∧ value = s.res0) ∨ (off = 0x30 ∧ value = s.res1) ∨ (off = 0x38 ∧ value = s.res2) →
      step s = .next { s with pending := rest, replies := s.replies ++ [⟨.ok, value⟩] }

/-- R26: the STATUS view, its reserved bits, and what a host write of each bit does; after reset it reads 0. -/
def Obligations.StatusIsViewOfItsFields : Prop :=
  (∀ s : State,
    (statusView s).getLsbD 0 = s.err ∧ (statusView s).extractLsb' 1 7 = 0 ∧
    (statusView s).extractLsb' 8 8 = s.ecause ∧ (statusView s).extractLsb' 16 8 = s.lastop ∧
    (statusView s).extractLsb' 24 40 = 0) ∧
  (∀ (s : State) (v : Word) (rest : List HostInput), Presents s ⟨.write, 0x20, .b8, v⟩ rest →
    ∃ t, step s = .next t ∧
      (v.getLsbD 0 = true → t.err = false ∧ t.ecause = 0) ∧
      (v.getLsbD 0 = false → t.err = s.err ∧ t.ecause = s.ecause) ∧ t.lastop = s.lastop) ∧
  statusView State.reset = 0

/-- R111: a rejected word stays in CMD, sets ERR and ECAUSE, changes nothing else, and its write answers OK. -/
def Obligations.RejectionRecordsCauseOnly : Prop :=
  ∀ (s : State) (v : Word) (c : Cause) (rest : List HostInput),
    Presents s ⟨.write, 0x18, .b8, v⟩ rest → decode s.sizes v = .rejected c →
    ∃ code : Byte,
      (c = .illegalOpcode → code = 0x01) ∧ (c = .reservedField → code = 0x02) ∧ (c = .indexRange → code = 0x03) ∧
      step s = .next
        { s with cmd := v, err := true, ecause := code, pending := rest, replies := s.replies ++ [⟨.ok, 0⟩] }

/-- A step runs the decoded command: with its word as the next accepted CMD write, the step is `exec` of the command on the
state that holds the word in CMD and has taken the input, followed by the reply OK (R44, R60). The second clause is the
model's choice (log entry 12), of no rule: the block fetches nothing, and `withFetchWord` presents exactly that write. -/
def Obligations.StepRunsDecodedCommand : Prop :=
  (∀ (s : State) (i : Instr) (v : Word) (rest : List HostInput),
    Presents s ⟨.write, 0x18, .b8, v⟩ rest → decode s.sizes v = .cmd i →
    step s = thenReply ⟨.ok, 0⟩ (exec i { s with cmd := v, pending := rest })) ∧
  (∀ (s : State) (v : Word), Presents (s.withFetchWord 64 v.toNat) ⟨.write, 0x18, .b8, v⟩ s.pending)

/-- The platform presents `address - BASE` for an address in the window, and nothing for an address outside it (R41). -/
def Obligations.WindowStartsAtBase : Prop :=
  (∀ off : BitVec 6, presentedOffset (Config.base + off.toNat) = some off) ∧
  (∀ n : Nat, n < Config.base ∨ Config.base + 64 ≤ n → presentedOffset n = none)

/-- Byte lane i carries bits 8i+7..8i, lane 0 the least significant byte, and the eight lanes are the word (R49). -/
def Obligations.ByteLanesAreLittleEndian : Prop :=
  ∀ v : Word,
    (∀ i, i < 8 → (byteLane v i).toNat = v.toNat / 2 ^ (8 * i) % 2 ^ 8) ∧
    wordOfLanes (byteLane v 0) (byteLane v 1) (byteLane v 2) (byteLane v 3) (byteLane v 4) (byteLane v 5)
      (byteLane v 6) (byteLane v 7) = v

/-! ### Whole-machine rules -/

/-- No step stops: every state has a next state. This is the model's reading, of no rule: a bus error, which the spec's own list
of treatments calls `fault`, is a next state (log entry 4, DEDUCED), an access while reset is asserted, which that list calls
`stuck`, is taken with no effect (log entry 7, DESIGN CHOICE), and an idle step changes nothing (log entry 2, DEDUCED). -/
def Obligations.EveryStepAnswers : Prop :=
  (∀ s : State, ∃ t, step s = .next t) ∧ (∀ (i : Instr) (s : State), ∃ t, exec i s = .next t)

/-- No arithmetic condition is an error: every command with an index in its table is performed, on all operands (R115, R29). -/
def Obligations.WellFormedCommandsArePerformed : Prop :=
  ∀ (i : Instr) (s : State), wellFormed s.sizes i = true →
    ∃ t, exec i s = .next t ∧ t.lastop = opcodeOf (mnemonicOf i) ∧ KeepsAllButResult s t

/-- `exec` itself, given an index at or beyond its table, rejects the four table commands with INDEX_RANGE and writes no result.
That `exec` checks the index which the decoder has checked already is the model's choice (log entry 11, DEDUCED); the effect
is that of the rejection each command's rule lists. -/
def Obligations.IndexBeyondTableIsRejected : Prop :=
  ∀ (s : State) (sh : BitVec 8) (k : BitVec 10),
    (s.sizes.p5Count ≤ k.toNat →
      exec (.p5ld k) s = .next { s with err := true, ecause := 0x03 } ∧
      exec (.mulshp5 sh k) s = .next { s with err := true, ecause := 0x03 }) ∧
    (s.sizes.p5iCount ≤ k.toNat →
      exec (.p5ild k) s = .next { s with err := true, ecause := 0x03 } ∧
      exec (.mulshp5i sh k) s = .next { s with err := true, ecause := 0x03 })

/-- The legal values of ERR, ECAUSE and LASTOP are kept by every step (R28, R29). -/
def Obligations.StatusLegalKeptByEveryStep : Prop :=
  ∀ s t : State, StatusLegal s → step s = .next t → StatusLegal t

/-- They hold at reset (R28, R29, R34). -/
def Obligations.StatusLegalAtReset : Prop := StatusLegal State.reset

/-- What LASTOP tells of the result registers is kept by every step (R29, R30, and the range each command's rule gives). -/
def Obligations.ResultFitsLastopKeptByEveryStep : Prop :=
  ∀ s t : State, ResultFitsLastop s → step s = .next t → ResultFitsLastop t

/-- It holds at reset (R29, R34). -/
def Obligations.ResultFitsLastopAtReset : Prop := ResultFitsLastop State.reset

/-- R27: rejecting sets ERR, performing and bus errors leave it, and only a STATUS write with bit 0 = 1 or a reset clears
it. -/
def Obligations.ErrIsSticky : Prop :=
  (∀ s t : State, step s = .next t → s.err = true → t.err = false →
    ResetEvent s ∨ ∃ v rest, Presents s ⟨.write, 0x20, .b8, v⟩ rest ∧ v.getLsbD 0 = true) ∧
  (∀ (s : State) (v : Word) (rest : List HostInput), Presents s ⟨.write, 0x20, .b8, v⟩ rest → v.getLsbD 0 = true →
    ∃ t, step s = .next t ∧ t.err = false) ∧
  (∀ (s : State) (v : Word) (c : Cause) (rest : List HostInput), Presents s ⟨.write, 0x18, .b8, v⟩ rest →
    decode s.sizes v = .rejected c → ∃ t, step s = .next t ∧ t.err = true) ∧
  (∀ (s : State) (v : Word) (i : Instr) (rest : List HostInput), Presents s ⟨.write, 0x18, .b8, v⟩ rest →
    decode s.sizes v = .cmd i → ∃ t, step s = .next t ∧ t.err = s.err) ∧
  (∀ (s : State) (a : Access) (k : BusErrorKind) (rest : List HostInput), Presents s a rest → busCheck a = some k →
    ∃ t, step s = .next t ∧ t.err = s.err)

/-- Only a performed command or a reset changes a result register or LASTOP, and a performed command leaves its own opcode in
LASTOP (R29, R30). -/
def Obligations.ResultsChangeOnlyByPerformedCommand : Prop :=
  ∀ s t : State, step s = .next t →
    ¬ (t.res0 = s.res0 ∧ t.res1 = s.res1 ∧ t.res2 = s.res2 ∧ t.lastop = s.lastop) →
    ResetEvent s ∨
    ∃ v rest i, Presents s ⟨.write, 0x18, .b8, v⟩ rest ∧ decode s.sizes v = .cmd i ∧
      t.lastop = opcodeOf (mnemonicOf i)

/-- OPA, OPB, OPC and CMD change only by the host's write of that register, which leaves the value written, or by a reset: no
command writes them (R22 to R25). -/
def Obligations.OperandsChangeOnlyByTheirWrite : Prop :=
  ∀ s t : State, step s = .next t → ¬ ResetEvent s →
    (t.opa ≠ s.opa → ∃ rest, Presents s ⟨.write, 0x00, .b8, t.opa⟩ rest) ∧
    (t.opb ≠ s.opb → ∃ rest, Presents s ⟨.write, 0x08, .b8, t.opb⟩ rest) ∧
    (t.opc ≠ s.opc → ∃ rest, Presents s ⟨.write, 0x10, .b8, t.opc⟩ rest) ∧
    (t.cmd ≠ s.cmd → ∃ rest, Presents s ⟨.write, 0x18, .b8, t.cmd⟩ rest)

/-- The table sizes never change, and the `rst` level changes only by an event of the reset input (R31, R130). -/
def Obligations.ConfigurationNeverChanges : Prop :=
  ∀ s t : State, step s = .next t → t.sizes = s.sizes ∧ (t.inReset ≠ s.inReset → ResetEvent s)

/-- A command's results depend on no register but the operands R64 says it reads: two states that agree on those give the same
four results, whatever else they hold. -/
def Obligations.UnreadRegistersDoNotMatter : Prop :=
  ∀ (i : Instr) (s s' : State), s.sizes = s'.sizes → wellFormed s.sizes i = true →
    (∀ r ∈ operandsRead (mnemonicOf i), readReg r s = readReg r s') →
    ∃ t t', exec i s = .next t ∧ exec i s' = .next t' ∧
      t.res0 = t'.res0 ∧ t.res1 = t'.res1 ∧ t.res2 = t'.res2 ∧ t.lastop = t'.lastop

/-- An access issued twice in a row leaves the block as the first left it: operand and STATUS writes are idempotent, a CMD
write repeated with unchanged operands writes the same results, and reads change nothing (R48, R46). -/
def Obligations.RepeatedAccessChangesNothingMore : Prop :=
  ∀ (s : State) (a : Access) (rest : List HostInput), s.inReset = false →
    s.pending = .access a :: .access a :: rest →
    ∃ t u, step s = .next t ∧ step t = .next u ∧ KeepsBlock t u

/-- After a CMD write, ERR still 0, or LASTOP newly equal to the opcode issued, proves that the command was performed, so that
the result registers hold its results (R135). -/
def Obligations.CheckBeforeUseIsSound : Prop :=
  ∀ (s t : State) (v : Word) (rest : List HostInput),
    Presents s ⟨.write, 0x18, .b8, v⟩ rest → step s = .next t →
    ((s.err = false ∧ t.err = false) ∨ (s.lastop.toNat ≠ opBits v ∧ t.lastop.toNat = opBits v)) →
    ∃ i u, decode s.sizes v = .cmd i ∧ exec i { s with cmd := v, pending := rest } = .next u ∧
      t.res0 = u.res0 ∧ t.res1 = u.res1 ∧ t.res2 = u.res2

/-- Out of reset, as many steps as there are pending accesses give that many replies, in order after the earlier ones, and end
the host's program (R47, R51, R139). -/
def Obligations.EveryAccessGetsOneReply : Prop :=
  ∀ (accesses : List Access) (s : State), s.inReset = false → s.pending = accesses.map .access →
    ∃ t new, core.run accesses.length s = .next t ∧ ended t = true ∧ t.replies = s.replies ++ new ∧
      new.length = accesses.length

/-- With nothing pending a step keeps all the state, in reset or out of it. The model's choice (log entry 2, DEDUCED): the spec
describes no event for that case; it says only that the block starts no access of its own. -/
def Obligations.IdleBlockKeepsState : Prop :=
  ∀ s : State, s.pending = [] → step s = .next s

/-! ### Tables -/

/-- R13: L(k) is the least n with 5^k < 2^n, with the rule's values. (The logarithm formula, which the rule marks
`[derived]`, is `LengthIsFloorOfLog`.) -/
def Obligations.LengthIsLeastBound : Prop :=
  (∀ k, 5 ^ k < 2 ^ pow5Length k ∧ ∀ n, 5 ^ k < 2 ^ n → pow5Length k ≤ n) ∧
  pow5Length 0 = 1 ∧ pow5Length 1 = 3 ∧ pow5Length 2 = 5

/-- L(k) = floor(k * log2(5)) + 1: an inference, the sentence of the scope file on L(k) marked `[derived: 5^k is never a power
of two for k >= 1]`. -/
def Obligations.LengthIsFloorOfLog : Prop :=
  ∀ k : Nat, (pow5Length k : Int) = ⌊(k : ℝ) * Real.logb 2 5⌋ + 1

/-- R80: the forward entry by both its formulas, its 125 significant bits, and its scaling bounds, multiplied by 2^125 to stay
in whole numbers. (Where the left bound is an equality, which the rule marks `[derived]`, is `ForwardEntryExactUpTo53`.) -/
def Obligations.ForwardEntryRule : Prop :=
  ∀ k,
    pow5 k = 5 ^ k * 2 ^ 125 / 2 ^ pow5Length k ∧
    2 ^ 124 ≤ pow5 k ∧ pow5 k < 2 ^ 125 ∧
    (pow5Length k ≤ 125 → pow5 k = 5 ^ k * 2 ^ (125 - pow5Length k)) ∧
    (125 < pow5Length k → pow5 k = 5 ^ k / 2 ^ (pow5Length k - 125)) ∧
    pow5 k * 2 ^ pow5Length k ≤ 5 ^ k * 2 ^ 125 ∧ 5 ^ k * 2 ^ 125 < (pow5 k + 1) * 2 ^ pow5Length k ∧
    (pow5Length k ≤ 125 ↔ k ≤ 53)

/-- The forward entry equals its scaled 5^k exactly when k <= 53: an inference, the sentence on the equality of the left bound
in the table file marked `[derived: from the definition, since L(53) = 124 and L(54) = 126]`. -/
def Obligations.ForwardEntryExactUpTo53 : Prop :=
  (∀ k, pow5 k * 2 ^ pow5Length k = 5 ^ k * 2 ^ 125 ↔ k ≤ 53) ∧ pow5Length 53 = 124 ∧ pow5Length 54 = 126

/-- R81: the reciprocal entry is floor(X) + 1, above X and at most X + 1; its value at 0; its two top bits are always 0.
X = 2^(L(k)-1+125) / 5^k, so both bounds are multiplied by 5^k. (Its range from 1 on, which the rule marks `[derived]`, is
`ReciprocalEntryRange`.) -/
def Obligations.ReciprocalEntryRule : Prop :=
  ∀ k, k < 1024 →
    pow5Inv k = 2 ^ (pow5Length k - 1 + 125) / 5 ^ k + 1 ∧
    2 ^ (pow5Length k - 1 + 125) < pow5Inv k * 5 ^ k ∧ pow5Inv k * 5 ^ k ≤ 2 ^ (pow5Length k - 1 + 125) + 5 ^ k ∧
    (k = 0 → pow5Inv k = 0x20000000000000000000000000000001) ∧
    pow5Inv k < 2 ^ 126

/-- The range of the reciprocal entries from k = 1 on: an inference, the sentence of the table file marked `[derived: 2^(L-1) <
5^k < 2^L for k >= 1 ...]`. -/
def Obligations.ReciprocalEntryRange : Prop :=
  ∀ k, 1 ≤ k → k < 1024 → 2 ^ 124 < pow5Inv k ∧ pow5Inv k < 2 ^ 125

/-- R86: RES2 holds L(K) after P5LD or P5ILD. (How large L gets, which the rule marks `[derived]`, is `LengthBounds`.) -/
def Obligations.LengthFitsRes2 : Prop :=
  ∀ (s : State) (k : BitVec 10),
    (k.toNat < s.sizes.p5Count → ∃ t, exec (.p5ld k) s = .next t ∧ t.res2.toNat = pow5Length k.toNat) ∧
    (k.toNat < s.sizes.p5iCount → ∃ t, exec (.p5ild k) s = .next t ∧ t.res2.toNat = pow5Length k.toNat)

/-- How large L gets: an inference, the sentence of the table file marked `[derived: L(341) = 792, L(1023) = 2376 ...]`. -/
def Obligations.LengthBounds : Prop :=
  (∀ k, k < 342 → pow5Length k ≤ 792) ∧ (∀ k, k < 1024 → pow5Length k ≤ 2376) ∧
  pow5Length 341 = 792 ∧ pow5Length 1023 = 2376

/-! ### The eight commands -/

/-- R90, MUL128: the exact product, its frame, its rejections, its corner cases and example. -/
def Obligations.Mul128Rule : Prop :=
  (∀ s : State, ∃ t, exec .mul128 s = .next t ∧
    t.res1.toNat * 2 ^ 64 + t.res0.toNat = s.opa.toNat * s.opb.toNat ∧ t.res2 = 0 ∧ t.lastop = 0x01 ∧
    KeepsAllButResult s t ∧
    (s.opa = 0 ∨ s.opb = 0 → t.res1 = 0 ∧ t.res0 = 0) ∧
    (s.opa = 0xFFFFFFFFFFFFFFFF → s.opb = 0xFFFFFFFFFFFFFFFF → t.res1 = 0xFFFFFFFFFFFFFFFE ∧ t.res0 = 1) ∧
    (s.opa = 0x100000000 → s.opb = 0x100000000 → t.res1 = 1 ∧ t.res0 = 0) ∧
    (s.opa = 0x123456789ABCDEF0 → s.opb = 0x0FEDCBA987654321 →
      t.res1 = 0x0121FA00AD77D742 ∧ t.res0 = 0x2236D88FE5618CF0)) ∧
  (∀ (c : TableSizes) (v : Word), opBits v = 0x01 →
    (shBits v ≠ 0 ∨ kBits v ≠ 0 ∨ rsvBits v ≠ 0 → decode c v = .rejected .reservedField) ∧
    (shBits v = 0 → kBits v = 0 → rsvBits v = 0 → decode c v = .cmd .mul128))

/-- R91, SHR128: the logical right shift of {OPB, OPA}, its frame, its rejections, its corner cases and example. (The corner
case it marks `[derived]`, 1 <= SH <= 63, is `Shr128ByWords`.) -/
def Obligations.Shr128Rule : Prop :=
  (∀ (s : State) (sh : BitVec 8), ∃ t, exec (.shr128 sh) s = .next t ∧
    t.res1.toNat * 2 ^ 64 + t.res0.toNat = (s.opb.toNat * 2 ^ 64 + s.opa.toNat) / 2 ^ sh.toNat ∧ t.res2 = 0 ∧
    t.lastop = 0x02 ∧ KeepsAllButResult s t ∧
    (sh.toNat = 0 → t.res1 = s.opb ∧ t.res0 = s.opa) ∧
    (sh.toNat = 64 → t.res1 = 0 ∧ t.res0 = s.opb) ∧
    (sh.toNat = 127 → t.res0.toNat = (if s.opb.getLsbD 63 then 1 else 0) ∧ t.res1 = 0) ∧
    (128 ≤ sh.toNat → t.res0 = 0 ∧ t.res1 = 0) ∧
    (s.opb = 0x0123456789ABCDEF → s.opa = 0xFEDCBA9876543210 → sh.toNat = 4 →
      t.res1 = 0x00123456789ABCDE ∧ t.res0 = 0xFFEDCBA987654321)) ∧
  (∀ (c : TableSizes) (v : Word), opBits v = 0x02 →
    (kBits v ≠ 0 ∨ rsvBits v ≠ 0 → decode c v = .rejected .reservedField) ∧
    (kBits v = 0 → rsvBits v = 0 → ∃ sh : BitVec 8, sh.toNat = shBits v ∧ decode c v = .cmd (.shr128 sh)))

/-- SHR128 by 1 to 63 in terms of its two words: an inference, the corner case of the wide arithmetic file marked `[derived:
from the pseudocode]`. -/
def Obligations.Shr128ByWords : Prop :=
  ∀ (s : State) (sh : BitVec 8), 1 ≤ sh.toNat → sh.toNat ≤ 63 → ∃ t, exec (.shr128 sh) s = .next t ∧
    t.res0 = (s.opa >>> sh.toNat) ||| (s.opb <<< (64 - sh.toNat)) ∧ t.res1 = s.opb >>> sh.toNat

/-- R92, MOD1E9: {OPB, OPA} mod 10^9 for every 128-bit value, its frame, its rejections, its corner cases and example. -/
def Obligations.Mod1e9Rule : Prop :=
  (∀ s : State, ∃ t, exec .mod1e9 s = .next t ∧
    t.res0.toNat = (s.opb.toNat * 2 ^ 64 + s.opa.toNat) % 10 ^ 9 ∧ t.res0.toNat < 2 ^ 30 ∧ t.res1 = 0 ∧ t.res2 = 0 ∧
    t.lastop = 0x03 ∧ KeepsAllButResult s t ∧
    (s.opb = 0 → s.opa = 0 → t.res0 = 0) ∧
    (s.opb = 0 → s.opa = 999999999 → t.res0 = 999999999) ∧
    (s.opb = 0 → s.opa = 1000000000 → t.res0 = 0) ∧
    (s.opb = 1 → s.opa = 0 → t.res0 = 709551616) ∧
    (s.opb = 0xFFFFFFFFFFFFFFFF → s.opa = 0xFFFFFFFFFFFFFFFF → t.res0 = 0x2DC9F9FF) ∧
    (s.opb = 0x0000000027E41B32 → s.opa = 0x46BEC9B16E398115 → t.res0 = 123456789)) ∧
  (∀ (c : TableSizes) (v : Word), opBits v = 0x03 →
    (shBits v ≠ 0 ∨ kBits v ≠ 0 ∨ rsvBits v ≠ 0 → decode c v = .rejected .reservedField) ∧
    (shBits v = 0 → kBits v = 0 → rsvBits v = 0 → decode c v = .cmd .mod1e9))

/-- R100, MULSH: the whole exact quotient, its frame, its rejections, its corner cases and example. -/
def Obligations.MulshRule : Prop :=
  (∀ (s : State) (sh : BitVec 8), ∃ t, exec (.mulsh sh) s = .next t ∧
    resultValue t = s.opa.toNat * (s.opc.toNat * 2 ^ 64 + s.opb.toNat) / 2 ^ sh.toNat ∧ t.lastop = 0x04 ∧
    KeepsAllButResult s t ∧
    (s.opa = 0 ∨ (s.opc = 0 ∧ s.opb = 0) → resultValue t = 0) ∧
    (sh.toNat = 0 → resultValue t = s.opa.toNat * (s.opc.toNat * 2 ^ 64 + s.opb.toNat)) ∧
    (sh.toNat = 64 → t.res2 = 0) ∧
    (sh.toNat = 191 → resultValue t ≤ 1) ∧
    (192 ≤ sh.toNat → resultValue t = 0) ∧
    (s.opa = 0xFFFFFFFFFFFFFFFF → s.opc = 0xFFFFFFFFFFFFFFFF → s.opb = 0xFFFFFFFFFFFFFFFF → sh.toNat = 0 →
      t.res2 = 0xFFFFFFFFFFFFFFFE ∧ t.res1 = 0xFFFFFFFFFFFFFFFF ∧ t.res0 = 0x0000000000000001) ∧
    (s.opa = 0x1234567890ABCDEF → s.opc = 0xFEDCBA0987654321 → s.opb = 0x0F1E2D3C4B5A6978 → sh.toNat = 100 →
      t.res2 = 0 ∧ t.res1 = 0x000000000121FA00 ∧ t.res0 = 0x0A3723A57C35D7A9)) ∧
  (∀ (c : TableSizes) (v : Word), opBits v = 0x04 →
    (kBits v ≠ 0 ∨ rsvBits v ≠ 0 → decode c v = .rejected .reservedField) ∧
    (kBits v = 0 → rsvBits v = 0 → ∃ sh : BitVec 8, sh.toNat = shBits v ∧ decode c v = .cmd (.mulsh sh)))

/-- R82, P5LD: the forward entry and its length, its frame, its rejections, its corner cases and example. (The corner case on
the top bits of RES1, which it marks `[derived]`, is `P5ldTopBits`.) -/
def Obligations.P5ldRule : Prop :=
  (∀ (s : State) (k : BitVec 10), k.toNat < s.sizes.p5Count → ∃ t, exec (.p5ld k) s = .next t ∧
    t.res1.toNat * 2 ^ 64 + t.res0.toNat = pow5 k.toNat ∧ t.res2.toNat = pow5Length k.toNat ∧ t.lastop = 0x05 ∧
    KeepsAllButResult s t ∧
    (k = 0 → t.res1 = 0x1000000000000000 ∧ t.res0 = 0 ∧ t.res2 = 1) ∧
    (k = 1 → t.res1 = 0x1400000000000000 ∧ t.res0 = 0 ∧ t.res2 = 3)) ∧
  (∀ (c : TableSizes) (v : Word), opBits v = 0x05 →
    (shBits v ≠ 0 ∨ rsvBits v ≠ 0 → decode c v = .rejected .reservedField) ∧
    (shBits v = 0 → rsvBits v = 0 → c.p5Count ≤ kBits v → decode c v = .rejected .indexRange) ∧
    (shBits v = 0 → rsvBits v = 0 → kBits v < c.p5Count →
      ∃ k : BitVec 10, k.toNat = kBits v ∧ decode c v = .cmd (.p5ld k)))

/-- After P5LD, RES1[63:61] is 0 and RES1[60] is 1: an inference, the corner case of the table file marked `[derived: from rule
R80]`. -/
def Obligations.P5ldTopBits : Prop :=
  ∀ (s : State) (k : BitVec 10), k.toNat < s.sizes.p5Count → ∃ t, exec (.p5ld k) s = .next t ∧
    t.res1.extractLsb' 61 3 = 0 ∧ t.res1.getLsbD 60 = true

/-- R83, P5ILD: the reciprocal entry and its length, its frame, its rejections, its corner cases and example. -/
def Obligations.P5ildRule : Prop :=
  (∀ (s : State) (k : BitVec 10), k.toNat < s.sizes.p5iCount → ∃ t, exec (.p5ild k) s = .next t ∧
    t.res1.toNat * 2 ^ 64 + t.res0.toNat = pow5Inv k.toNat ∧ t.res2.toNat = pow5Length k.toNat ∧ t.lastop = 0x06 ∧
    KeepsAllButResult s t ∧ t.res1.extractLsb' 62 2 = 0 ∧ (t.res1.getLsbD 61 = true ↔ k = 0) ∧
    (k = 0 → t.res1 = 0x2000000000000000 ∧ t.res0 = 1 ∧ t.res2 = 1) ∧
    (k = 1 → t.res1 = 0x1999999999999999 ∧ t.res0 = 0x999999999999999A ∧ t.res2 = 3)) ∧
  (∀ (c : TableSizes) (v : Word), opBits v = 0x06 →
    (shBits v ≠ 0 ∨ rsvBits v ≠ 0 → decode c v = .rejected .reservedField) ∧
    (shBits v = 0 → rsvBits v = 0 → c.p5iCount ≤ kBits v → decode c v = .rejected .indexRange) ∧
    (shBits v = 0 → rsvBits v = 0 → kBits v < c.p5iCount →
      ∃ k : BitVec 10, k.toNat = kBits v ∧ decode c v = .cmd (.p5ild k)))

/-- R101, MULSHP5: the exact quotient with a forward entry, its frame, its rejections, its corner cases and example. (Its
equivalence with P5LD then MULSH and its exact case, which it marks `[derived]`, are `FusedIsLoadThenMulsh` and
`FusedExactCases`.) -/
def Obligations.Mulshp5Rule : Prop :=
  (∀ (s : State) (sh : BitVec 8) (k : BitVec 10), k.toNat < s.sizes.p5Count → ∃ t, exec (.mulshp5 sh k) s = .next t ∧
    resultValue t = s.opa.toNat * pow5 k.toNat / 2 ^ sh.toNat ∧ t.lastop = 0x07 ∧ KeepsAllButResult s t ∧
    (s.opa = 0 → resultValue t = 0) ∧
    t.res2.toNat < 2 ^ 61 ∧ (189 ≤ sh.toNat → resultValue t = 0) ∧
    (s.opa = 1000 → k = 27 → sh = 62 →
      t.res2 = 0 ∧ t.res1 = 0x0000000000000193 ∧ t.res0 = 0xE5939A08CE9DBD48)) ∧
  (∀ (c : TableSizes) (v : Word), opBits v = 0x07 →
    (rsvBits v ≠ 0 → decode c v = .rejected .reservedField) ∧
    (rsvBits v = 0 → c.p5Count ≤ kBits v → decode c v = .rejected .indexRange) ∧
    (rsvBits v = 0 → kBits v < c.p5Count →
      ∃ (sh : BitVec 8) (k : BitVec 10), sh.toNat = shBits v ∧ k.toNat = kBits v ∧
        decode c v = .cmd (.mulshp5 sh k)))

/-- R102, MULSHP5I: the exact quotient with a reciprocal entry, its frame, its rejections, its corner cases and example. (Its
equivalence with P5ILD then MULSH and its case K = 0, SH = 125, which it marks `[derived]`, are `FusedIsLoadThenMulsh` and
`FusedExactCases`.) -/
def Obligations.Mulshp5iRule : Prop :=
  (∀ (s : State) (sh : BitVec 8) (k : BitVec 10), k.toNat < s.sizes.p5iCount →
    ∃ t, exec (.mulshp5i sh k) s = .next t ∧
    resultValue t = s.opa.toNat * pow5Inv k.toNat / 2 ^ sh.toNat ∧ t.lastop = 0x08 ∧ KeepsAllButResult s t ∧
    (s.opa = 0 → resultValue t = 0) ∧
    (sh.toNat = pow5Length k.toNat + 124 → s.opa.toNat / 5 ^ k.toNat ≤ resultValue t) ∧
    (s.opa.toNat = 10 ^ 17 → k = 17 → sh = 164 → t.res0 = 131072 ∧ t.res1 = 0 ∧ t.res2 = 0)) ∧
  (∀ (c : TableSizes) (v : Word), opBits v = 0x08 →
    (rsvBits v ≠ 0 → decode c v = .rejected .reservedField) ∧
    (rsvBits v = 0 → c.p5iCount ≤ kBits v → decode c v = .rejected .indexRange) ∧
    (rsvBits v = 0 → kBits v < c.p5iCount →
      ∃ (sh : BitVec 8) (k : BitVec 10), sh.toNat = shBits v ∧ k.toNat = kBits v ∧
        decode c v = .cmd (.mulshp5i sh k)))

/-- A fused command's result is that of the lookup with the same K, then MULSH with OPB and OPC written from RES0 and RES1 and
the same SH: inferences, the two Equivalence lines of the multiply-shift file, marked `[derived]`. -/
def Obligations.FusedIsLoadThenMulsh : Prop :=
  ∀ (s : State) (sh : BitVec 8) (k : BitVec 10),
    (k.toNat < s.sizes.p5Count → ∃ t a b, exec (.mulshp5 sh k) s = .next t ∧ exec (.p5ld k) s = .next a ∧
      exec (.mulsh sh) { a with opb := a.res0, opc := a.res1 } = .next b ∧
      t.res0 = b.res0 ∧ t.res1 = b.res1 ∧ t.res2 = b.res2) ∧
    (k.toNat < s.sizes.p5iCount → ∃ t a b, exec (.mulshp5i sh k) s = .next t ∧ exec (.p5ild k) s = .next a ∧
      exec (.mulsh sh) { a with opb := a.res0, opc := a.res1 } = .next b ∧
      t.res0 = b.res0 ∧ t.res1 = b.res1 ∧ t.res2 = b.res2)

/-- Where a fused command is exact: MULSHP5 with K <= 53 and SH = 125 - L(K) gives m * 5^K, and MULSHP5I with K = 0 and SH = 125
gives m: inferences, the two corner cases of the multiply-shift file marked `[derived]`. -/
def Obligations.FusedExactCases : Prop :=
  ∀ (s : State) (sh : BitVec 8) (k : BitVec 10),
    (k.toNat < s.sizes.p5Count → k.toNat ≤ 53 → sh.toNat = 125 - pow5Length k.toNat →
      ∃ t, exec (.mulshp5 sh k) s = .next t ∧ resultValue t = s.opa.toNat * 5 ^ k.toNat) ∧
    (0 < s.sizes.p5iCount → ∃ t, exec (.mulshp5i 125 0) s = .next t ∧ resultValue t = s.opa.toNat)

/-! ### The assembler -/

/-- R69: a `cmd` statement the assembler accepts is one 8-byte CMD write whose word carries the mnemonic's opcode and the given
fields, an omitted one 0, and no word it makes is rejected for its opcode or a reserved field; it refuses a field the opcode
does not use and a value that does not fit. -/
def Obligations.CmdStatementEncodesItsFields : Prop :=
  ∀ (m : Mnemonic) (sh k : Option Nat),
    (∀ a, assembleStmt (.cmd m sh k) = some a →
      ∃ v, a = ⟨.write, 0x18, .b8, v⟩ ∧ opBits v = (opcodeOf m).toNat ∧ shBits v = sh.getD 0 ∧ kBits v = k.getD 0 ∧
        rsvBits v = 0 ∧
        ∀ c, decode c v ≠ .rejected .illegalOpcode ∧ decode c v ≠ .rejected .reservedField) ∧
    (assembleStmt (.cmd m sh k) = none ↔
      (∃ n, sh = some n ∧ (usesSH m = false ∨ 256 ≤ n)) ∨ (∃ n, k = some n ∧ (usesK m = false ∨ 1024 ≤ n)))

/-- R70: the accesses each pseudo-instruction expands to, for operands that fit their fields. -/
def Obligations.PseudoInstructionsExpand : Prop :=
  ∀ (a b c : Word) (sh : BitVec 8) (k : BitVec 10),
    assembleLine (.pseudo (.mul128 a.toNat b.toNat)) =
      some [⟨.write, 0x00, .b8, a⟩, ⟨.write, 0x08, .b8, b⟩, ⟨.write, 0x18, .b8, encode .mul128⟩] ∧
    assembleLine (.pseudo (.shr128 a.toNat b.toNat sh.toNat)) =
      some [⟨.write, 0x00, .b8, b⟩, ⟨.write, 0x08, .b8, a⟩, ⟨.write, 0x18, .b8, encode (.shr128 sh)⟩] ∧
    assembleLine (.pseudo (.mod1e9 a.toNat b.toNat)) =
      some [⟨.write, 0x00, .b8, b⟩, ⟨.write, 0x08, .b8, a⟩, ⟨.write, 0x18, .b8, encode .mod1e9⟩] ∧
    assembleLine (.pseudo (.mulsh a.toNat b.toNat c.toNat sh.toNat)) =
      some [⟨.write, 0x00, .b8, a⟩, ⟨.write, 0x08, .b8, c⟩, ⟨.write, 0x10, .b8, b⟩,
        ⟨.write, 0x18, .b8, encode (.mulsh sh)⟩] ∧
    assembleLine (.pseudo (.p5ld k.toNat)) = some [⟨.write, 0x18, .b8, encode (.p5ld k)⟩] ∧
    assembleLine (.pseudo (.p5ild k.toNat)) = some [⟨.write, 0x18, .b8, encode (.p5ild k)⟩] ∧
    assembleLine (.pseudo (.mulshp5 a.toNat k.toNat sh.toNat)) =
      some [⟨.write, 0x00, .b8, a⟩, ⟨.write, 0x18, .b8, encode (.mulshp5 sh k)⟩] ∧
    assembleLine (.pseudo (.mulshp5i a.toNat k.toNat sh.toNat)) =
      some [⟨.write, 0x00, .b8, a⟩, ⟨.write, 0x18, .b8, encode (.mulshp5i sh k)⟩] ∧
    assembleLine (.pseudo .rdres) = some [⟨.read, 0x28, .b8, 0⟩, ⟨.read, 0x30, .b8, 0⟩, ⟨.read, 0x38, .b8, 0⟩] ∧
    assembleLine (.pseudo .clrerr) = some [⟨.write, 0x20, .b8, 1⟩]
end

