-- ==== Sys2Proof/Laws/Decode.lean ====
section
/-! SUPPORT. The fields of an encoded word, and the opcode map read both ways. -/

namespace Sys2Proof

theorem encodeFields_toNat (op sh : BitVec 8) (k : BitVec 10) :
    (encodeFields op sh k).toNat = op.toNat + sh.toNat * 2 ^ 8 + k.toNat * 2 ^ 16 := by
  have h1 := op.isLt
  have h2 := sh.isLt
  have h3 := k.isLt
  unfold encodeFields
  rw [BitVec.toNat_ofNat, Nat.mod_eq_of_lt (by omega)]

@[simp] theorem opField_encodeFields (op sh : BitVec 8) (k : BitVec 10) : opField (encodeFields op sh k) = op := by
  apply BitVec.eq_of_toNat_eq
  have h1 := op.isLt
  have h2 := sh.isLt
  have h3 := k.isLt
  simp only [opField, BitVec.extractLsb'_toNat, encodeFields_toNat, Nat.shiftRight_eq_div_pow]
  omega

@[simp] theorem shField_encodeFields (op sh : BitVec 8) (k : BitVec 10) : shField (encodeFields op sh k) = sh := by
  apply BitVec.eq_of_toNat_eq
  have h1 := op.isLt
  have h2 := sh.isLt
  have h3 := k.isLt
  simp only [shField, BitVec.extractLsb'_toNat, encodeFields_toNat, Nat.shiftRight_eq_div_pow]
  omega

@[simp] theorem kField_encodeFields (op sh : BitVec 8) (k : BitVec 10) : kField (encodeFields op sh k) = k := by
  apply BitVec.eq_of_toNat_eq
  have h1 := op.isLt
  have h2 := sh.isLt
  have h3 := k.isLt
  simp only [kField, BitVec.extractLsb'_toNat, encodeFields_toNat, Nat.shiftRight_eq_div_pow]
  omega

@[simp] theorem rsvField_encodeFields (op sh : BitVec 8) (k : BitVec 10) : rsvField (encodeFields op sh k) = 0 := by
  apply BitVec.eq_of_toNat_eq
  have h1 := op.isLt
  have h2 := sh.isLt
  have h3 := k.isLt
  simp only [rsvField, BitVec.extractLsb'_toNat, encodeFields_toNat, Nat.shiftRight_eq_div_pow]
  simp
  omega

/-- A word is its four fields. -/
theorem word_toNat_fields (v : Word) :
    v.toNat = (opField v).toNat + (shField v).toNat * 2 ^ 8 + (kField v).toNat * 2 ^ 16 + (rsvField v).toNat * 2 ^ 26 := by
  have h := v.isLt
  simp only [opField, shField, kField, rsvField, BitVec.extractLsb'_toNat, Nat.shiftRight_eq_div_pow]
  omega

@[simp] theorem mnemonicOfOpcode_opcodeOf (m : Mnemonic) : mnemonicOfOpcode (opcodeOf m) = some m := by
  cases m <;> rfl

theorem opcodeOf_of_mnemonicOfOpcode {op : BitVec 8} {m : Mnemonic} (h : mnemonicOfOpcode op = some m) :
    opcodeOf m = op := by
  unfold mnemonicOfOpcode at h
  split_ifs at h <;> (cases h; subst_vars; rfl)

@[simp] theorem mnemonicOf_instrOf (m : Mnemonic) (sh : BitVec 8) (k : BitVec 10) :
    mnemonicOf (instrOf m sh k) = m := by
  cases m <;> rfl

theorem decide_le_eq_not_decide_lt (n k : Nat) : decide (n ≤ k) = !decide (k < n) := by
  rw [← decide_not]
  exact decide_eq_decide.mpr Nat.not_lt.symm

/-- A command is well formed exactly when its index is not beyond its table. -/
theorem beyondTable_eq_not_wellFormed (c : TableSizes) (i : Instr) :
    beyondTable c (mnemonicOf i) (kOf i) = !wellFormed c i := by
  cases i <;> first | rfl | exact decide_le_eq_not_decide_lt _ _

/-- A command is its mnemonic and its two fields. -/
@[simp] theorem instrOf_mnemonicOf (i : Instr) : instrOf (mnemonicOf i) (shOf i) (kOf i) = i := by
  cases i <;> rfl

/-- The one thing a decoder can do: name the cause, or give the command of the word's opcode and fields. -/
theorem decode_cases (c : TableSizes) (v : Word) :
    (mnemonicOfOpcode (opField v) = none ∧ decode c v = .rejected .illegalOpcode) ∨
    (∃ m, mnemonicOfOpcode (opField v) = some m ∧ reservedSet m v = true ∧ decode c v = .rejected .reservedField) ∨
    (∃ m, mnemonicOfOpcode (opField v) = some m ∧ reservedSet m v = false ∧ beyondTable c m (kField v) = true ∧
      decode c v = .rejected .indexRange) ∨
    (∃ m, mnemonicOfOpcode (opField v) = some m ∧ reservedSet m v = false ∧ beyondTable c m (kField v) = false ∧
      decode c v = .cmd (instrOf m (shField v) (kField v))) := by
  unfold decode
  cases hm : mnemonicOfOpcode (opField v) with
  | none => exact .inl ⟨rfl, rfl⟩
  | some m =>
    cases hr : reservedSet m v with
    | true => exact .inr (.inl ⟨m, rfl, hr, by simp [hr]⟩)
    | false =>
      cases hb : beyondTable c m (kField v) with
      | true => exact .inr (.inr (.inl ⟨m, rfl, hr, hb, by simp [hr, hb]⟩))
      | false => exact .inr (.inr (.inr ⟨m, rfl, hr, hb, by simp [hr, hb]⟩))

end Sys2Proof
end

