-- ==== Sys2Proof/Laws/State.lean ====
section
/-! SUPPORT. What each field of the state is after each named update: one lemma per field per update. -/

namespace Sys2Proof.Machine

/-! ### performed -/

@[simp] theorem performed_opa (op : Byte) (r0 r1 r2 : Word) (s : State) : (performed op r0 r1 r2 s).opa = s.opa := rfl
@[simp] theorem performed_opb (op : Byte) (r0 r1 r2 : Word) (s : State) : (performed op r0 r1 r2 s).opb = s.opb := rfl
@[simp] theorem performed_opc (op : Byte) (r0 r1 r2 : Word) (s : State) : (performed op r0 r1 r2 s).opc = s.opc := rfl
@[simp] theorem performed_cmd (op : Byte) (r0 r1 r2 : Word) (s : State) : (performed op r0 r1 r2 s).cmd = s.cmd := rfl
@[simp] theorem performed_err (op : Byte) (r0 r1 r2 : Word) (s : State) : (performed op r0 r1 r2 s).err = s.err := rfl
@[simp] theorem performed_ecause (op : Byte) (r0 r1 r2 : Word) (s : State) : (performed op r0 r1 r2 s).ecause = s.ecause := rfl
@[simp] theorem performed_lastop (op : Byte) (r0 r1 r2 : Word) (s : State) : (performed op r0 r1 r2 s).lastop = op := rfl
@[simp] theorem performed_res0 (op : Byte) (r0 r1 r2 : Word) (s : State) : (performed op r0 r1 r2 s).res0 = r0 := rfl
@[simp] theorem performed_res1 (op : Byte) (r0 r1 r2 : Word) (s : State) : (performed op r0 r1 r2 s).res1 = r1 := rfl
@[simp] theorem performed_res2 (op : Byte) (r0 r1 r2 : Word) (s : State) : (performed op r0 r1 r2 s).res2 = r2 := rfl
@[simp] theorem performed_inReset (op : Byte) (r0 r1 r2 : Word) (s : State) : (performed op r0 r1 r2 s).inReset = s.inReset := rfl
@[simp] theorem performed_pending (op : Byte) (r0 r1 r2 : Word) (s : State) : (performed op r0 r1 r2 s).pending = s.pending := rfl
@[simp] theorem performed_replies (op : Byte) (r0 r1 r2 : Word) (s : State) : (performed op r0 r1 r2 s).replies = s.replies := rfl
@[simp] theorem performed_sizes (op : Byte) (r0 r1 r2 : Word) (s : State) : (performed op r0 r1 r2 s).sizes = s.sizes := rfl

/-! ### performedQuotient -/

@[simp] theorem performedQuotient_opa (op : Byte) (q : Nat) (s : State) : (performedQuotient op q s).opa = s.opa := rfl
@[simp] theorem performedQuotient_opb (op : Byte) (q : Nat) (s : State) : (performedQuotient op q s).opb = s.opb := rfl
@[simp] theorem performedQuotient_opc (op : Byte) (q : Nat) (s : State) : (performedQuotient op q s).opc = s.opc := rfl
@[simp] theorem performedQuotient_cmd (op : Byte) (q : Nat) (s : State) : (performedQuotient op q s).cmd = s.cmd := rfl
@[simp] theorem performedQuotient_err (op : Byte) (q : Nat) (s : State) : (performedQuotient op q s).err = s.err := rfl
@[simp] theorem performedQuotient_ecause (op : Byte) (q : Nat) (s : State) : (performedQuotient op q s).ecause = s.ecause := rfl
@[simp] theorem performedQuotient_lastop (op : Byte) (q : Nat) (s : State) : (performedQuotient op q s).lastop = op := rfl
@[simp] theorem performedQuotient_res0 (op : Byte) (q : Nat) (s : State) : (performedQuotient op q s).res0 = limb 0 q := rfl
@[simp] theorem performedQuotient_res1 (op : Byte) (q : Nat) (s : State) : (performedQuotient op q s).res1 = limb 1 q := rfl
@[simp] theorem performedQuotient_res2 (op : Byte) (q : Nat) (s : State) : (performedQuotient op q s).res2 = limb 2 q := rfl
@[simp] theorem performedQuotient_inReset (op : Byte) (q : Nat) (s : State) : (performedQuotient op q s).inReset = s.inReset := rfl
@[simp] theorem performedQuotient_pending (op : Byte) (q : Nat) (s : State) : (performedQuotient op q s).pending = s.pending := rfl
@[simp] theorem performedQuotient_replies (op : Byte) (q : Nat) (s : State) : (performedQuotient op q s).replies = s.replies := rfl
@[simp] theorem performedQuotient_sizes (op : Byte) (q : Nat) (s : State) : (performedQuotient op q s).sizes = s.sizes := rfl

/-! ### reject -/

@[simp] theorem reject_opa (c : Cause) (s : State) : (reject c s).opa = s.opa := rfl
@[simp] theorem reject_opb (c : Cause) (s : State) : (reject c s).opb = s.opb := rfl
@[simp] theorem reject_opc (c : Cause) (s : State) : (reject c s).opc = s.opc := rfl
@[simp] theorem reject_cmd (c : Cause) (s : State) : (reject c s).cmd = s.cmd := rfl
@[simp] theorem reject_err (c : Cause) (s : State) : (reject c s).err = true := rfl
@[simp] theorem reject_ecause (c : Cause) (s : State) : (reject c s).ecause = causeCode c := rfl
@[simp] theorem reject_lastop (c : Cause) (s : State) : (reject c s).lastop = s.lastop := rfl
@[simp] theorem reject_res0 (c : Cause) (s : State) : (reject c s).res0 = s.res0 := rfl
@[simp] theorem reject_res1 (c : Cause) (s : State) : (reject c s).res1 = s.res1 := rfl
@[simp] theorem reject_res2 (c : Cause) (s : State) : (reject c s).res2 = s.res2 := rfl
@[simp] theorem reject_inReset (c : Cause) (s : State) : (reject c s).inReset = s.inReset := rfl
@[simp] theorem reject_pending (c : Cause) (s : State) : (reject c s).pending = s.pending := rfl
@[simp] theorem reject_replies (c : Cause) (s : State) : (reject c s).replies = s.replies := rfl
@[simp] theorem reject_sizes (c : Cause) (s : State) : (reject c s).sizes = s.sizes := rfl

/-! ### setOpa -/

@[simp] theorem setOpa_opa (v : Word) (s : State) : (setOpa v s).opa = v := rfl
@[simp] theorem setOpa_opb (v : Word) (s : State) : (setOpa v s).opb = s.opb := rfl
@[simp] theorem setOpa_opc (v : Word) (s : State) : (setOpa v s).opc = s.opc := rfl
@[simp] theorem setOpa_cmd (v : Word) (s : State) : (setOpa v s).cmd = s.cmd := rfl
@[simp] theorem setOpa_err (v : Word) (s : State) : (setOpa v s).err = s.err := rfl
@[simp] theorem setOpa_ecause (v : Word) (s : State) : (setOpa v s).ecause = s.ecause := rfl
@[simp] theorem setOpa_lastop (v : Word) (s : State) : (setOpa v s).lastop = s.lastop := rfl
@[simp] theorem setOpa_res0 (v : Word) (s : State) : (setOpa v s).res0 = s.res0 := rfl
@[simp] theorem setOpa_res1 (v : Word) (s : State) : (setOpa v s).res1 = s.res1 := rfl
@[simp] theorem setOpa_res2 (v : Word) (s : State) : (setOpa v s).res2 = s.res2 := rfl
@[simp] theorem setOpa_inReset (v : Word) (s : State) : (setOpa v s).inReset = s.inReset := rfl
@[simp] theorem setOpa_pending (v : Word) (s : State) : (setOpa v s).pending = s.pending := rfl
@[simp] theorem setOpa_replies (v : Word) (s : State) : (setOpa v s).replies = s.replies := rfl
@[simp] theorem setOpa_sizes (v : Word) (s : State) : (setOpa v s).sizes = s.sizes := rfl

/-! ### setOpb -/

@[simp] theorem setOpb_opa (v : Word) (s : State) : (setOpb v s).opa = s.opa := rfl
@[simp] theorem setOpb_opb (v : Word) (s : State) : (setOpb v s).opb = v := rfl
@[simp] theorem setOpb_opc (v : Word) (s : State) : (setOpb v s).opc = s.opc := rfl
@[simp] theorem setOpb_cmd (v : Word) (s : State) : (setOpb v s).cmd = s.cmd := rfl
@[simp] theorem setOpb_err (v : Word) (s : State) : (setOpb v s).err = s.err := rfl
@[simp] theorem setOpb_ecause (v : Word) (s : State) : (setOpb v s).ecause = s.ecause := rfl
@[simp] theorem setOpb_lastop (v : Word) (s : State) : (setOpb v s).lastop = s.lastop := rfl
@[simp] theorem setOpb_res0 (v : Word) (s : State) : (setOpb v s).res0 = s.res0 := rfl
@[simp] theorem setOpb_res1 (v : Word) (s : State) : (setOpb v s).res1 = s.res1 := rfl
@[simp] theorem setOpb_res2 (v : Word) (s : State) : (setOpb v s).res2 = s.res2 := rfl
@[simp] theorem setOpb_inReset (v : Word) (s : State) : (setOpb v s).inReset = s.inReset := rfl
@[simp] theorem setOpb_pending (v : Word) (s : State) : (setOpb v s).pending = s.pending := rfl
@[simp] theorem setOpb_replies (v : Word) (s : State) : (setOpb v s).replies = s.replies := rfl
@[simp] theorem setOpb_sizes (v : Word) (s : State) : (setOpb v s).sizes = s.sizes := rfl

/-! ### setOpc -/

@[simp] theorem setOpc_opa (v : Word) (s : State) : (setOpc v s).opa = s.opa := rfl
@[simp] theorem setOpc_opb (v : Word) (s : State) : (setOpc v s).opb = s.opb := rfl
@[simp] theorem setOpc_opc (v : Word) (s : State) : (setOpc v s).opc = v := rfl
@[simp] theorem setOpc_cmd (v : Word) (s : State) : (setOpc v s).cmd = s.cmd := rfl
@[simp] theorem setOpc_err (v : Word) (s : State) : (setOpc v s).err = s.err := rfl
@[simp] theorem setOpc_ecause (v : Word) (s : State) : (setOpc v s).ecause = s.ecause := rfl
@[simp] theorem setOpc_lastop (v : Word) (s : State) : (setOpc v s).lastop = s.lastop := rfl
@[simp] theorem setOpc_res0 (v : Word) (s : State) : (setOpc v s).res0 = s.res0 := rfl
@[simp] theorem setOpc_res1 (v : Word) (s : State) : (setOpc v s).res1 = s.res1 := rfl
@[simp] theorem setOpc_res2 (v : Word) (s : State) : (setOpc v s).res2 = s.res2 := rfl
@[simp] theorem setOpc_inReset (v : Word) (s : State) : (setOpc v s).inReset = s.inReset := rfl
@[simp] theorem setOpc_pending (v : Word) (s : State) : (setOpc v s).pending = s.pending := rfl
@[simp] theorem setOpc_replies (v : Word) (s : State) : (setOpc v s).replies = s.replies := rfl
@[simp] theorem setOpc_sizes (v : Word) (s : State) : (setOpc v s).sizes = s.sizes := rfl

/-! ### setCmd -/

@[simp] theorem setCmd_opa (v : Word) (s : State) : (setCmd v s).opa = s.opa := rfl
@[simp] theorem setCmd_opb (v : Word) (s : State) : (setCmd v s).opb = s.opb := rfl
@[simp] theorem setCmd_opc (v : Word) (s : State) : (setCmd v s).opc = s.opc := rfl
@[simp] theorem setCmd_cmd (v : Word) (s : State) : (setCmd v s).cmd = v := rfl
@[simp] theorem setCmd_err (v : Word) (s : State) : (setCmd v s).err = s.err := rfl
@[simp] theorem setCmd_ecause (v : Word) (s : State) : (setCmd v s).ecause = s.ecause := rfl
@[simp] theorem setCmd_lastop (v : Word) (s : State) : (setCmd v s).lastop = s.lastop := rfl
@[simp] theorem setCmd_res0 (v : Word) (s : State) : (setCmd v s).res0 = s.res0 := rfl
@[simp] theorem setCmd_res1 (v : Word) (s : State) : (setCmd v s).res1 = s.res1 := rfl
@[simp] theorem setCmd_res2 (v : Word) (s : State) : (setCmd v s).res2 = s.res2 := rfl
@[simp] theorem setCmd_inReset (v : Word) (s : State) : (setCmd v s).inReset = s.inReset := rfl
@[simp] theorem setCmd_pending (v : Word) (s : State) : (setCmd v s).pending = s.pending := rfl
@[simp] theorem setCmd_replies (v : Word) (s : State) : (setCmd v s).replies = s.replies := rfl
@[simp] theorem setCmd_sizes (v : Word) (s : State) : (setCmd v s).sizes = s.sizes := rfl

/-! ### giveReply -/

@[simp] theorem giveReply_opa (r : Reply) (s : State) : (giveReply r s).opa = s.opa := rfl
@[simp] theorem giveReply_opb (r : Reply) (s : State) : (giveReply r s).opb = s.opb := rfl
@[simp] theorem giveReply_opc (r : Reply) (s : State) : (giveReply r s).opc = s.opc := rfl
@[simp] theorem giveReply_cmd (r : Reply) (s : State) : (giveReply r s).cmd = s.cmd := rfl
@[simp] theorem giveReply_err (r : Reply) (s : State) : (giveReply r s).err = s.err := rfl
@[simp] theorem giveReply_ecause (r : Reply) (s : State) : (giveReply r s).ecause = s.ecause := rfl
@[simp] theorem giveReply_lastop (r : Reply) (s : State) : (giveReply r s).lastop = s.lastop := rfl
@[simp] theorem giveReply_res0 (r : Reply) (s : State) : (giveReply r s).res0 = s.res0 := rfl
@[simp] theorem giveReply_res1 (r : Reply) (s : State) : (giveReply r s).res1 = s.res1 := rfl
@[simp] theorem giveReply_res2 (r : Reply) (s : State) : (giveReply r s).res2 = s.res2 := rfl
@[simp] theorem giveReply_inReset (r : Reply) (s : State) : (giveReply r s).inReset = s.inReset := rfl
@[simp] theorem giveReply_pending (r : Reply) (s : State) : (giveReply r s).pending = s.pending := rfl
@[simp] theorem giveReply_replies (r : Reply) (s : State) : (giveReply r s).replies = s.replies ++ [r] := rfl
@[simp] theorem giveReply_sizes (r : Reply) (s : State) : (giveReply r s).sizes = s.sizes := rfl

/-! ### dropInput -/

@[simp] theorem dropInput_opa (s : State) : (dropInput s).opa = s.opa := rfl
@[simp] theorem dropInput_opb (s : State) : (dropInput s).opb = s.opb := rfl
@[simp] theorem dropInput_opc (s : State) : (dropInput s).opc = s.opc := rfl
@[simp] theorem dropInput_cmd (s : State) : (dropInput s).cmd = s.cmd := rfl
@[simp] theorem dropInput_err (s : State) : (dropInput s).err = s.err := rfl
@[simp] theorem dropInput_ecause (s : State) : (dropInput s).ecause = s.ecause := rfl
@[simp] theorem dropInput_lastop (s : State) : (dropInput s).lastop = s.lastop := rfl
@[simp] theorem dropInput_res0 (s : State) : (dropInput s).res0 = s.res0 := rfl
@[simp] theorem dropInput_res1 (s : State) : (dropInput s).res1 = s.res1 := rfl
@[simp] theorem dropInput_res2 (s : State) : (dropInput s).res2 = s.res2 := rfl
@[simp] theorem dropInput_inReset (s : State) : (dropInput s).inReset = s.inReset := rfl
@[simp] theorem dropInput_pending (s : State) : (dropInput s).pending = s.pending.tail := rfl
@[simp] theorem dropInput_replies (s : State) : (dropInput s).replies = s.replies := rfl
@[simp] theorem dropInput_sizes (s : State) : (dropInput s).sizes = s.sizes := rfl

/-! ### clearBlock -/

@[simp] theorem clearBlock_opa (s : State) : (clearBlock s).opa = 0 := rfl
@[simp] theorem clearBlock_opb (s : State) : (clearBlock s).opb = 0 := rfl
@[simp] theorem clearBlock_opc (s : State) : (clearBlock s).opc = 0 := rfl
@[simp] theorem clearBlock_cmd (s : State) : (clearBlock s).cmd = 0 := rfl
@[simp] theorem clearBlock_err (s : State) : (clearBlock s).err = false := rfl
@[simp] theorem clearBlock_ecause (s : State) : (clearBlock s).ecause = 0 := rfl
@[simp] theorem clearBlock_lastop (s : State) : (clearBlock s).lastop = 0 := rfl
@[simp] theorem clearBlock_res0 (s : State) : (clearBlock s).res0 = 0 := rfl
@[simp] theorem clearBlock_res1 (s : State) : (clearBlock s).res1 = 0 := rfl
@[simp] theorem clearBlock_res2 (s : State) : (clearBlock s).res2 = 0 := rfl
@[simp] theorem clearBlock_inReset (s : State) : (clearBlock s).inReset = s.inReset := rfl
@[simp] theorem clearBlock_pending (s : State) : (clearBlock s).pending = s.pending := rfl
@[simp] theorem clearBlock_replies (s : State) : (clearBlock s).replies = s.replies := rfl
@[simp] theorem clearBlock_sizes (s : State) : (clearBlock s).sizes = s.sizes := rfl

/-! ### assertReset -/

@[simp] theorem assertReset_opa (s : State) : (assertReset s).opa = 0 := rfl
@[simp] theorem assertReset_opb (s : State) : (assertReset s).opb = 0 := rfl
@[simp] theorem assertReset_opc (s : State) : (assertReset s).opc = 0 := rfl
@[simp] theorem assertReset_cmd (s : State) : (assertReset s).cmd = 0 := rfl
@[simp] theorem assertReset_err (s : State) : (assertReset s).err = false := rfl
@[simp] theorem assertReset_ecause (s : State) : (assertReset s).ecause = 0 := rfl
@[simp] theorem assertReset_lastop (s : State) : (assertReset s).lastop = 0 := rfl
@[simp] theorem assertReset_res0 (s : State) : (assertReset s).res0 = 0 := rfl
@[simp] theorem assertReset_res1 (s : State) : (assertReset s).res1 = 0 := rfl
@[simp] theorem assertReset_res2 (s : State) : (assertReset s).res2 = 0 := rfl
@[simp] theorem assertReset_inReset (s : State) : (assertReset s).inReset = true := rfl
@[simp] theorem assertReset_pending (s : State) : (assertReset s).pending = s.pending := rfl
@[simp] theorem assertReset_replies (s : State) : (assertReset s).replies = s.replies := rfl
@[simp] theorem assertReset_sizes (s : State) : (assertReset s).sizes = s.sizes := rfl

/-! ### releaseReset -/

@[simp] theorem releaseReset_opa (s : State) : (releaseReset s).opa = 0 := rfl
@[simp] theorem releaseReset_opb (s : State) : (releaseReset s).opb = 0 := rfl
@[simp] theorem releaseReset_opc (s : State) : (releaseReset s).opc = 0 := rfl
@[simp] theorem releaseReset_cmd (s : State) : (releaseReset s).cmd = 0 := rfl
@[simp] theorem releaseReset_err (s : State) : (releaseReset s).err = false := rfl
@[simp] theorem releaseReset_ecause (s : State) : (releaseReset s).ecause = 0 := rfl
@[simp] theorem releaseReset_lastop (s : State) : (releaseReset s).lastop = 0 := rfl
@[simp] theorem releaseReset_res0 (s : State) : (releaseReset s).res0 = 0 := rfl
@[simp] theorem releaseReset_res1 (s : State) : (releaseReset s).res1 = 0 := rfl
@[simp] theorem releaseReset_res2 (s : State) : (releaseReset s).res2 = 0 := rfl
@[simp] theorem releaseReset_inReset (s : State) : (releaseReset s).inReset = false := rfl
@[simp] theorem releaseReset_pending (s : State) : (releaseReset s).pending = s.pending := rfl
@[simp] theorem releaseReset_replies (s : State) : (releaseReset s).replies = s.replies := rfl
@[simp] theorem releaseReset_sizes (s : State) : (releaseReset s).sizes = s.sizes := rfl

/-! ### statusWrite -/

@[simp] theorem statusWrite_opa (v : Word) (s : State) : (statusWrite v s).opa = s.opa := by
  unfold statusWrite; split <;> rfl
@[simp] theorem statusWrite_opb (v : Word) (s : State) : (statusWrite v s).opb = s.opb := by
  unfold statusWrite; split <;> rfl
@[simp] theorem statusWrite_opc (v : Word) (s : State) : (statusWrite v s).opc = s.opc := by
  unfold statusWrite; split <;> rfl
@[simp] theorem statusWrite_cmd (v : Word) (s : State) : (statusWrite v s).cmd = s.cmd := by
  unfold statusWrite; split <;> rfl
@[simp] theorem statusWrite_err (v : Word) (s : State) : (statusWrite v s).err = if v.getLsbD 0 then false else s.err := by
  unfold statusWrite; split <;> rfl
@[simp] theorem statusWrite_ecause (v : Word) (s : State) : (statusWrite v s).ecause = if v.getLsbD 0 then 0 else s.ecause := by
  unfold statusWrite; split <;> rfl
@[simp] theorem statusWrite_lastop (v : Word) (s : State) : (statusWrite v s).lastop = s.lastop := by
  unfold statusWrite; split <;> rfl
@[simp] theorem statusWrite_res0 (v : Word) (s : State) : (statusWrite v s).res0 = s.res0 := by
  unfold statusWrite; split <;> rfl
@[simp] theorem statusWrite_res1 (v : Word) (s : State) : (statusWrite v s).res1 = s.res1 := by
  unfold statusWrite; split <;> rfl
@[simp] theorem statusWrite_res2 (v : Word) (s : State) : (statusWrite v s).res2 = s.res2 := by
  unfold statusWrite; split <;> rfl
@[simp] theorem statusWrite_inReset (v : Word) (s : State) : (statusWrite v s).inReset = s.inReset := by
  unfold statusWrite; split <;> rfl
@[simp] theorem statusWrite_pending (v : Word) (s : State) : (statusWrite v s).pending = s.pending := by
  unfold statusWrite; split <;> rfl
@[simp] theorem statusWrite_replies (v : Word) (s : State) : (statusWrite v s).replies = s.replies := by
  unfold statusWrite; split <;> rfl
@[simp] theorem statusWrite_sizes (v : Word) (s : State) : (statusWrite v s).sizes = s.sizes := by
  unfold statusWrite; split <;> rfl

theorem statusWrite_of_set {v : Word} (h : v.getLsbD 0 = true) (s : State) :
    statusWrite v s = { s with err := false, ecause := 0 } := if_pos h

theorem statusWrite_of_clear {v : Word} (h : v.getLsbD 0 = false) (s : State) : statusWrite v s = s := by
  unfold statusWrite
  rw [h]
  rfl

end Sys2Proof.Machine
end

