-- ==== Sys2Proof/Laws/Ops.lean ====
section
/-! SUPPORT. What each shared operation can do, said once: a command, a host access, an input, a step. -/

namespace Sys2Proof.Machine

/-- A command is performed under its own opcode, or its index is beyond its table and it is rejected. -/
theorem exec_cases (i : Instr) (s : State) :
    (wellFormed s.sizes i = true ∧ ∃ r0 r1 r2, exec i s = .next (performed (opcodeOf (mnemonicOf i)) r0 r1 r2 s)) ∨
    (wellFormed s.sizes i = false ∧ exec i s = .next (reject .indexRange s)) := by
  cases i with
  | mul128 => exact .inl ⟨rfl, _, _, _, rfl⟩
  | shr128 sh => exact .inl ⟨rfl, _, _, _, rfl⟩
  | mod1e9 => exact .inl ⟨rfl, _, _, _, rfl⟩
  | mulsh sh => exact .inl ⟨rfl, _, _, _, rfl⟩
  | p5ld k =>
    by_cases h : k.toNat < s.sizes.p5Count
    · exact .inl ⟨by simp [wellFormed, h], _, _, _, by simp only [exec, execP5ld, if_pos h]; rfl⟩
    · exact .inr ⟨by simp [wellFormed, h], by simp [exec, execP5ld, h]⟩
  | p5ild k =>
    by_cases h : k.toNat < s.sizes.p5iCount
    · exact .inl ⟨by simp [wellFormed, h], _, _, _, by simp only [exec, execP5ild, if_pos h]; rfl⟩
    · exact .inr ⟨by simp [wellFormed, h], by simp [exec, execP5ild, h]⟩
  | mulshp5 sh k =>
    by_cases h : k.toNat < s.sizes.p5Count
    · exact .inl ⟨by simp [wellFormed, h], _, _, _, by simp only [exec, execMulshp5, if_pos h]; rfl⟩
    · exact .inr ⟨by simp [wellFormed, h], by simp [exec, execMulshp5, h]⟩
  | mulshp5i sh k =>
    by_cases h : k.toNat < s.sizes.p5iCount
    · exact .inl ⟨by simp [wellFormed, h], _, _, _, by simp only [exec, execMulshp5i, if_pos h]; rfl⟩
    · exact .inr ⟨by simp [wellFormed, h], by simp [exec, execMulshp5i, h]⟩

/-- Running a word performs its command, or rejects the word for a cause. -/
theorem execute_cases (v : Word) (s : State) :
    (∃ i r0 r1 r2, decode s.sizes v = .cmd i ∧
      execute v s = .next (performed (opcodeOf (mnemonicOf i)) r0 r1 r2 s)) ∨
    (∃ c, execute v s = .next (reject c s)) := by
  unfold execute
  cases hd : decode s.sizes v with
  | rejected c => exact .inr ⟨c, rfl⟩
  | cmd i =>
    rcases exec_cases i s with ⟨-, r0, r1, r2, h⟩ | ⟨-, h⟩
    · exact .inl ⟨i, r0, r1, r2, rfl, h⟩
    · exact .inr ⟨_, h⟩

/-- An accepted access gives one reply; before it, the block is as it was, or one register is stored, or STATUS is written,
or a command word is stored and run. -/
theorem hostAccess_cases (a : Access) (s : State) :
    ∃ r u, hostAccess a s = .next (giveReply r u) ∧
      (u = s ∨
       (a = ⟨.write, 0x00, .b8, a.wdata⟩ ∧ u = setOpa a.wdata s) ∨
       (a = ⟨.write, 0x08, .b8, a.wdata⟩ ∧ u = setOpb a.wdata s) ∨
       (a = ⟨.write, 0x10, .b8, a.wdata⟩ ∧ u = setOpc a.wdata s) ∨
       (a = ⟨.write, 0x20, .b8, a.wdata⟩ ∧ u = statusWrite a.wdata s) ∨
       (a = cmdWrite a.wdata ∧ execute a.wdata (setCmd a.wdata s) = .next u)) := by
  obtain ⟨dir, off, size, v⟩ := a
  unfold hostAccess
  cases hb : busCheck ⟨dir, off, size, v⟩ with
  | some kind => exact ⟨_, s, rfl, .inl rfl⟩
  | none =>
    have hsize : size = .b8 := by
      by_contra hne
      simp [busCheck, hne] at hb
    subst hsize
    cases dir with
    | read => exact ⟨_, s, rfl, .inl rfl⟩
    | write =>
      simp only [regAt]
      split_ifs with h0 h1 h2 h3 h4 h5 h6
      · exact ⟨_, _, rfl, .inr (.inl ⟨by rw [h0], rfl⟩)⟩
      · exact ⟨_, _, rfl, .inr (.inr (.inl ⟨by rw [h1], rfl⟩))⟩
      · exact ⟨_, _, rfl, .inr (.inr (.inr (.inl ⟨by rw [h2], rfl⟩)))⟩
      · rcases execute_cases v (setCmd v s) with ⟨i, r0, r1, r2, -, h⟩ | ⟨c, h⟩
        · exact ⟨_, _, by rw [writeReg, h]; rfl, .inr (.inr (.inr (.inr (.inr ⟨by rw [h3]; rfl, h⟩))))⟩
        · exact ⟨_, _, by rw [writeReg, h]; rfl, .inr (.inr (.inr (.inr (.inr ⟨by rw [h3]; rfl, h⟩))))⟩
      · exact ⟨_, _, rfl, .inr (.inr (.inr (.inr (.inl ⟨by rw [h4], rfl⟩))))⟩
      · exact ⟨_, _, rfl, .inl rfl⟩
      · exact ⟨_, _, rfl, .inl rfl⟩
      · exact ⟨_, _, rfl, .inl rfl⟩

/-- Everything a step can do: nothing is pending; reset holds the block; reset is asserted; reset is released; or an access
is accepted. -/
theorem step_cases (s : State) :
    (s.pending = [] ∧ step s = .next s) ∨
    (∃ e rest, s.pending = e :: rest ∧
      ((step s = .next (dropInput s) ∧ ((s.inReset = true ∧ ∃ a, e = .access a) ∨ (s.inReset = false ∧ e = .resetReleased))) ∨
       (step s = .next (assertReset (dropInput s)) ∧ (e = .resetAsserted ∨ ∃ a, e = .interruptedAccess a)) ∨
       (step s = .next (releaseReset (dropInput s)) ∧ s.inReset = true ∧ e = .resetReleased) ∨
       (∃ a, step s = hostAccess a (dropInput s) ∧ s.inReset = false ∧ e = .access a))) := by
  unfold step nextInput
  cases hp : s.pending with
  | nil => exact .inl ⟨rfl, rfl⟩
  | cons e rest =>
    refine .inr ⟨e, rest, rfl, ?_⟩
    cases e with
    | access a =>
      cases hr : s.inReset with
      | true => exact .inl ⟨by simp [handleInput, hr], .inl ⟨rfl, a, rfl⟩⟩
      | false => exact .inr (.inr (.inr ⟨a, by simp [handleInput, hr], rfl, rfl⟩))
    | interruptedAccess a => exact .inr (.inl ⟨rfl, .inr ⟨a, rfl⟩⟩)
    | resetAsserted => exact .inr (.inl ⟨rfl, .inl rfl⟩)
    | resetReleased =>
      cases hr : s.inReset with
      | true => exact .inr (.inr (.inl ⟨by simp [handleInput, hr], rfl, rfl⟩))
      | false => exact .inl ⟨by simp [handleInput, hr], .inr ⟨rfl, rfl⟩⟩

end Sys2Proof.Machine
end

