-- ==== Sys2Proof/Laws/PerInstr.lean ====
section
/-! SUPPORT. Per-instruction statements: the fields of a command's word (family EncodedFields, spec/30_encoding.md R61,
R63). -/

namespace Sys2Proof.Laws.EncodedFields

/-- The word of a command holds its opcode, its SH and its K in their fields, and 0 in RSV and in a field the opcode does
not use. -/
def Statement (i : Instr) : Prop :=
  opField (encode i) = opcodeOf (mnemonicOf i) ∧ shField (encode i) = shOf i ∧ kField (encode i) = kOf i ∧
    rsvField (encode i) = 0 ∧ reservedSet (mnemonicOf i) (encode i) = false

theorem mul128 : Statement .mul128 := by
  simp [Statement, encode, reservedSet, shOf, kOf]

theorem shr128 (sh : BitVec 8) : Statement (.shr128 sh) := by
  simp [Statement, encode, reservedSet, shOf, kOf, mnemonicOf, usesSH]

theorem mod1e9 : Statement .mod1e9 := by
  simp [Statement, encode, reservedSet, shOf, kOf]

theorem mulsh (sh : BitVec 8) : Statement (.mulsh sh) := by
  simp [Statement, encode, reservedSet, shOf, kOf, mnemonicOf, usesSH]

theorem p5ld (k : BitVec 10) : Statement (.p5ld k) := by
  simp [Statement, encode, reservedSet, shOf, kOf, mnemonicOf, usesK]

theorem p5ild (k : BitVec 10) : Statement (.p5ild k) := by
  simp [Statement, encode, reservedSet, shOf, kOf, mnemonicOf, usesK]

theorem mulshp5 (sh : BitVec 8) (k : BitVec 10) : Statement (.mulshp5 sh k) := by
  simp [Statement, encode, reservedSet, shOf, kOf, mnemonicOf, usesSH, usesK]

theorem mulshp5i (sh : BitVec 8) (k : BitVec 10) : Statement (.mulshp5i sh k) := by
  simp [Statement, encode, reservedSet, shOf, kOf, mnemonicOf, usesSH, usesK]

end Sys2Proof.Laws.EncodedFields
end

