-- ==== Sys2Proof/Laws/Pow5.lean ====
section
/-! SUPPORT. The bit length of a power of five, and words of wide values. -/

namespace Sys2Proof.Machine

theorem pow5Length_pos (k : Nat) : 1 ≤ pow5Length k := by
  unfold pow5Length; omega

theorem pow5_lt_two_pow_length (k : Nat) : 5 ^ k < 2 ^ pow5Length k := Nat.lt_log2_self

theorem two_pow_length_le_pow5 (k : Nat) : 2 ^ (pow5Length k - 1) ≤ 5 ^ k := by
  have h : (5 : Nat) ^ k ≠ 0 := by positivity
  simpa [pow5Length] using Nat.log2_self_le h

/-- Longer powers have at least the length of shorter ones. -/
theorem pow5Length_mono {j k : Nat} (h : j ≤ k) : pow5Length j ≤ pow5Length k := by
  have h1 : (2 : Nat) ^ (pow5Length j - 1) < 2 ^ pow5Length k :=
    lt_of_le_of_lt (two_pow_length_le_pow5 j)
      (lt_of_le_of_lt (Nat.pow_le_pow_right (by norm_num) h) (pow5_lt_two_pow_length k))
  have h2 := (Nat.pow_lt_pow_iff_right (by norm_num : 1 < 2)).mp h1
  omega

theorem limb_toNat (i n : Nat) : (limb i n).toNat = n / 2 ^ (64 * i) % 2 ^ 64 := by
  simp [limb]

/-- A value below 2^128 is its two words. -/
theorem joinWords_limbs {n : Nat} (h : n < 2 ^ 128) : joinWords (limb 1 n) (limb 0 n) = n := by
  simp only [joinWords, limb_toNat]
  omega

/-- A value below 2^192 is its three words. -/
theorem limbs_value {n : Nat} (h : n < 2 ^ 192) :
    (limb 2 n).toNat * 2 ^ 128 + (limb 1 n).toNat * 2 ^ 64 + (limb 0 n).toNat = n := by
  simp only [limb_toNat]
  omega

theorem joinWords_lt (hi lo : Word) : joinWords hi lo < 2 ^ 128 := by
  have h1 := hi.isLt
  have h2 := lo.isLt
  unfold joinWords
  omega

end Sys2Proof.Machine
end

