-- ==== Sys2Proof/Laws/Window.lean ====
section
/-! SUPPORT. The register window seen from the host: what an access of each register does, and everything a step can do to
the block's own state. -/

namespace Sys2Proof.Machine

@[simp] theorem regAt_offsetOf (r : WinReg) : regAt (offsetOf r) = r := by
  cases r <;> simp [regAt, offsetOf]

theorem busCheck_read (r : WinReg) (w : Word) : busCheck ⟨.read, offsetOf r, .b8, w⟩ = none := by
  cases r <;> simp [busCheck, offsetOf]

theorem busCheck_write (r : WinReg) (v : Word) :
    busCheck ⟨.write, offsetOf r, .b8, v⟩ = if r = .res0 ∨ r = .res1 ∨ r = .res2 then some .ro else none := by
  cases r <;> simp [busCheck, offsetOf]

/-- A legal read replies with the register and changes nothing. -/
theorem hostAccess_read (r : WinReg) (w : Word) (s : State) :
    hostAccess ⟨.read, offsetOf r, .b8, w⟩ s = .next (giveReply ⟨.ok, readReg r s⟩ s) := by
  simp [hostAccess, busCheck_read]

/-- A legal write of a register that is not read-only has the register's effect and then replies OK. -/
theorem hostAccess_write (r : WinReg) (v : Word) (s : State) (h0 : r ≠ .res0) (h1 : r ≠ .res1) (h2 : r ≠ .res2) :
    hostAccess ⟨.write, offsetOf r, .b8, v⟩ s = thenReply ⟨.ok, 0⟩ (writeReg r v s) := by
  simp [hostAccess, busCheck_write, h0, h1, h2]

theorem dropInput_of_pending {s : State} {e : HostInput} {rest : List HostInput} (h : s.pending = e :: rest) :
    dropInput s = { s with pending := rest } := by
  simp [dropInput, h]

/-- The step that takes a presented access is that access on the state with the input taken. -/
theorem step_of_presents {s : State} {a : Access} {rest : List HostInput} (h : Presents s a rest) :
    step s = hostAccess a { s with pending := rest } := by
  rw [← dropInput_of_pending h.pending]
  simp [step, nextInput, handleInput, h.pending, h.released]

/-- A command always answers a next state. -/
theorem exec_next (i : Instr) (s : State) : ∃ t, exec i s = .next t := by
  rcases exec_cases i s with ⟨-, r0, r1, r2, h⟩ | ⟨-, h⟩ <;> exact ⟨_, h⟩

/-- A command gives one reply's worth of state: it leaves the queue, the replies and the level as they are. -/
theorem hostAccess_host (a : Access) (s : State) :
    ∃ r t, hostAccess a s = .next t ∧ t.replies = s.replies ++ [r] ∧ t.pending = s.pending ∧ t.inReset = s.inReset ∧
      t.sizes = s.sizes := by
  obtain ⟨r, u, h1, h2⟩ := hostAccess_cases a s
  refine ⟨r, _, h1, ?_⟩
  rcases h2 with rfl | ⟨-, rfl⟩ | ⟨-, rfl⟩ | ⟨-, rfl⟩ | ⟨-, rfl⟩ | ⟨-, h2⟩
  · simp
  · simp
  · simp
  · simp
  · simp
  · rcases execute_cases a.wdata (setCmd a.wdata s) with ⟨i, r0, r1, r2, -, h3⟩ | ⟨c, h3⟩ <;>
      (rw [h2] at h3; cases h3; simp)

theorem decode_wellFormed {c : TableSizes} {v : Word} {i : Instr} (hd : decode c v = .cmd i) :
    wellFormed c i = true ∧ opcodeOf (mnemonicOf i) = opField v := by
  rcases decode_cases c v with ⟨-, h⟩ | ⟨m, -, -, h⟩ | ⟨m, -, -, -, h⟩ | ⟨m, hm, -, hb, h⟩
  · simp [h] at hd
  · simp [h] at hd
  · simp [h] at hd
  · rw [h] at hd
    cases hd
    refine ⟨?_, by simpa using opcodeOf_of_mnemonicOfOpcode hm⟩
    cases m <;> simp_all [instrOf, wellFormed, beyondTable, kBound]

theorem coreRun_succ (M : Host.Core) {n : Nat} {s t : M.State} (h : M.step s = .next t) :
    M.run (n + 1) s = M.run n t := by
  rw [Host.Core.run, h]

/-- A run of one more step is the run from the step's state. -/
theorem run_succ {n : Nat} {s t : State} (h : step s = .next t) : core.run (n + 1) s = core.run n t :=
  coreRun_succ core h

/-- A reflexive case of `KeepsBlock`. -/
theorem KeepsBlock.refl (s : State) : KeepsBlock s s := ⟨rfl, rfl, rfl, rfl, rfl, rfl, rfl, rfl, rfl, rfl⟩

/-- Everything a step can do to the block: nothing; reset it; or one of the five effects of a legal write. -/
theorem step_block {s t : State} (h : step s = .next t) :
    (KeepsBlock s t ∧ t.sizes = s.sizes ∧ t.inReset = s.inReset) ∨
    (AtResetValues t ∧ t.sizes = s.sizes ∧ ResetEvent s) ∨
    (∃ v rest, t.inReset = s.inReset ∧ t.sizes = s.sizes ∧
      ((Presents s ⟨.write, 0x00, .b8, v⟩ rest ∧ KeepsBlock (setOpa v s) t) ∨
       (Presents s ⟨.write, 0x08, .b8, v⟩ rest ∧ KeepsBlock (setOpb v s) t) ∨
       (Presents s ⟨.write, 0x10, .b8, v⟩ rest ∧ KeepsBlock (setOpc v s) t) ∨
       (Presents s ⟨.write, 0x20, .b8, v⟩ rest ∧ KeepsBlock (statusWrite v s) t) ∨
       (Presents s ⟨.write, 0x18, .b8, v⟩ rest ∧
         ∃ u, execute v (setCmd v { s with pending := rest }) = .next u ∧ KeepsBlock u t))) := by
  rcases step_cases s with ⟨-, h0⟩ | ⟨e, rest, hp, ⟨h0, -⟩ | ⟨h0, he⟩ | ⟨h0, hr, he⟩ | ⟨a, h0, hr, he⟩⟩
  · rw [h0] at h
    cases h
    exact .inl ⟨.refl _, rfl, rfl⟩
  · rw [h0] at h
    cases h
    exact .inl ⟨⟨rfl, rfl, rfl, rfl, rfl, rfl, rfl, rfl, rfl, rfl⟩, rfl, rfl⟩
  · rw [h0] at h
    cases h
    refine .inr (.inl ⟨⟨rfl, rfl, rfl, rfl, rfl, rfl, rfl, rfl, rfl, rfl⟩, rfl, rest, ?_⟩)
    rcases he with he | ⟨a, he⟩
    · exact .inl (he ▸ hp)
    · exact .inr (.inl ⟨a, he ▸ hp⟩)
  · rw [h0] at h
    cases h
    exact .inr (.inl ⟨⟨rfl, rfl, rfl, rfl, rfl, rfl, rfl, rfl, rfl, rfl⟩, rfl, rest, .inr (.inr ⟨hr, he ▸ hp⟩)⟩)
  · obtain ⟨r, u, h1, h2⟩ := hostAccess_cases a (dropInput s)
    obtain ⟨r', u', h1', -, -, hi, hz⟩ := hostAccess_host a (dropInput s)
    rw [h0] at h
    rw [h] at h1'
    cases h1'
    rw [h1] at h
    cases h
    subst he
    rcases h2 with rfl | h2
    · exact .inl ⟨⟨rfl, rfl, rfl, rfl, rfl, rfl, rfl, rfl, rfl, rfl⟩, rfl, rfl⟩
    · refine .inr (.inr ⟨a.wdata, rest, hi, hz, ?_⟩)
      rcases h2 with ⟨ha, rfl⟩ | ⟨ha, rfl⟩ | ⟨ha, rfl⟩ | ⟨ha, rfl⟩ | ⟨ha, h2⟩
      · exact .inl ⟨⟨hr, ha ▸ hp⟩, ⟨rfl, rfl, rfl, rfl, rfl, rfl, rfl, rfl, rfl, rfl⟩⟩
      · exact .inr (.inl ⟨⟨hr, ha ▸ hp⟩, ⟨rfl, rfl, rfl, rfl, rfl, rfl, rfl, rfl, rfl, rfl⟩⟩)
      · exact .inr (.inr (.inl ⟨⟨hr, ha ▸ hp⟩, ⟨rfl, rfl, rfl, rfl, rfl, rfl, rfl, rfl, rfl, rfl⟩⟩))
      · exact .inr (.inr (.inr (.inl ⟨⟨hr, ha ▸ hp⟩, by constructor <;> simp⟩)))
      · rw [dropInput_of_pending hp] at h2
        exact .inr (.inr (.inr (.inr ⟨⟨hr, ha ▸ hp⟩, u, h2, ⟨rfl, rfl, rfl, rfl, rfl, rfl, rfl, rfl, rfl, rfl⟩⟩)))

end Sys2Proof.Machine
end

