-- ==== Sys2Proof/Tests/Slice0.lean ====
section
/-! SUPPORT. The model's own tests. Expected values come from spec/95_test_vectors.md (the table named at each test) or from
the rule named; none is the model's own answer. The last part shows, for every statement of the certificates that has
hypotheses, operands that meet them. -/

namespace Sys2Proof.Machine

/-! ### Helpers -/

/-- The state after reset with the three operand registers set and one host access pending. -/
def issue (a b c : Word) (acc : Access) : State :=
  { State.reset with opa := a, opb := b, opc := c, pending := [.access acc] }

/-- The state a step answers; reset if it answers none. -/
def after (s : State) : State :=
  match step s with
  | .next t => t
  | .fault _ => State.reset
  | .refused _ => State.reset

/-- The state after one CMD write. -/
def ran (a b c v : Word) : State := after (issue a b c (cmdWrite v))

/-- The three result words, high word first. -/
def results (s : State) : Word × Word × Word := (s.res2, s.res1, s.res0)

theorem issue_presents (a b c : Word) (acc : Access) : Presents (issue a b c acc) acc [] := ⟨rfl, rfl⟩

/-! ### WellFormed refuses an ill-formed term of each check (R8, R60) -/

theorem test_wellFormed_refuses_p5ld : wellFormed Config.defaultSizes (.p5ld 326) = false := by decide
theorem test_wellFormed_refuses_p5ild : wellFormed Config.defaultSizes (.p5ild 342) = false := by decide
theorem test_wellFormed_refuses_mulshp5 : wellFormed Config.defaultSizes (.mulshp5 0 326) = false := by decide
theorem test_wellFormed_refuses_mulshp5i : wellFormed Config.defaultSizes (.mulshp5i 0 342) = false := by decide
theorem test_wellFormed_allows_last :
    wellFormed Config.defaultSizes (.p5ld 325) = true ∧ wellFormed Config.defaultSizes (.p5ild 341) = true := by decide
theorem test_sizes_legal :
    TableSizes.legal Config.defaultSizes = true ∧ TableSizes.legal ⟨0, 342⟩ = false ∧
      TableSizes.legal ⟨326, 1025⟩ = false := by decide

/-! ### Decoding: each constructor's word written out from R61 and R64 (RSV, K, SH, OP) -/

theorem test_decode_mul128 :
    decode Config.defaultSizes
      0b00000000000000000000000000000000000000_0000000000_00000000_00000001 = .cmd .mul128 := by decide
theorem test_decode_shr128 :
    decode Config.defaultSizes
      0b00000000000000000000000000000000000000_0000000000_01111111_00000010 = .cmd (.shr128 127) := by decide
theorem test_decode_mod1e9 :
    decode Config.defaultSizes
      0b00000000000000000000000000000000000000_0000000000_00000000_00000011 = .cmd .mod1e9 := by decide
theorem test_decode_mulsh :
    decode Config.defaultSizes
      0b00000000000000000000000000000000000000_0000000000_11000000_00000100 = .cmd (.mulsh 192) := by decide
theorem test_decode_p5ld :
    decode Config.defaultSizes
      0b00000000000000000000000000000000000000_0101000101_00000000_00000101 = .cmd (.p5ld 325) := by decide
theorem test_decode_p5ild :
    decode Config.defaultSizes
      0b00000000000000000000000000000000000000_0101010101_00000000_00000110 = .cmd (.p5ild 341) := by decide
theorem test_decode_mulshp5 :
    decode Config.defaultSizes
      0b00000000000000000000000000000000000000_0000011011_01100100_00000111 = .cmd (.mulshp5 100 27) := by decide
theorem test_decode_mulshp5i :
    decode Config.defaultSizes
      0b00000000000000000000000000000000000000_0000010001_10100100_00001000 = .cmd (.mulshp5i 164 17) := by decide

/-- The rejections of L2.9, with the priority of R113. -/
theorem test_decode_rejects :
    decode Config.defaultSizes 0x0000000000000000 = .rejected .illegalOpcode ∧
    decode Config.defaultSizes 0x0000000000000009 = .rejected .illegalOpcode ∧
    decode Config.defaultSizes 0x8000000000000055 = .rejected .illegalOpcode ∧
    decode Config.defaultSizes 0x0000000000000105 = .rejected .reservedField ∧
    decode Config.defaultSizes 0x0000000000010002 = .rejected .reservedField ∧
    decode Config.defaultSizes 0x0000000004000005 = .rejected .reservedField ∧
    decode Config.defaultSizes 0x0000000001460105 = .rejected .reservedField ∧
    decode Config.defaultSizes 0x0000000001460005 = .rejected .indexRange ∧
    decode Config.defaultSizes 0x0000000001560006 = .rejected .indexRange ∧
    decode Config.defaultSizes 0x0000000001460007 = .rejected .indexRange := by decide

theorem test_decodeTableWord :
    decodeTableWord 64 0x4002 = some (.shr128 64) ∧ decodeTableWord 64 0x09 = none ∧
      decodeTableWord 65 0x4002 = none := by decide

/-! ### The eight commands, one step each -/

/-- L2.1, largest product. -/
theorem test_mul128_largest :
    results (ran 0xFFFFFFFFFFFFFFFF 0xFFFFFFFFFFFFFFFF 0 0x0000000000000001) = (0, 0xFFFFFFFFFFFFFFFE, 1) := by decide
/-- L2.1, the example of R90. -/
theorem test_mul128_example :
    results (ran 0x123456789ABCDEF0 0x0FEDCBA987654321 0 0x0000000000000001) =
      (0, 0x0121FA00AD77D742, 0x2236D88FE5618CF0) := by decide
/-- L2.2, one bit crosses the words. -/
theorem test_shr128_crosses :
    results (ran 0xFEDCBA9876543210 0x0123456789ABCDEF 0 0x0000000000000102) =
      (0, 0x0091A2B3C4D5E6F7, 0xFF6E5D4C3B2A1908) := by decide
/-- L2.2, SH = 127 leaves OPB[63]. -/
theorem test_shr128_127 : results (ran 0 0x8000000000000000 0 0x0000000000007F02) = (0, 0, 1) := by decide
/-- L2.3, 2^128 - 1. -/
theorem test_mod1e9_largest :
    results (ran 0xFFFFFFFFFFFFFFFF 0xFFFFFFFFFFFFFFFF 0 0x0000000000000003) = (0, 0, 768211455) := by decide
/-- L2.3, 10^38. -/
theorem test_mod1e9_power : results (ran 0x098A224000000000 0x4B3B4CA85A86C47A 0 0x0000000000000003) = (0, 0, 0) := by
  decide
/-- L2.4 set A, SH = 0. -/
theorem test_mulsh_full :
    results (ran 0x1234567890ABCDEF 0x0F1E2D3C4B5A6978 0xFEDCBA0987654321 0x0000000000000004) =
      (0x121FA000A3723A57, 0xC35D7A9A94C456ED, 0xF73E7499B3058F08) := by decide
/-- L2.4 set B, SH = 33. -/
theorem test_mulsh_33 :
    results (ran 0xFFFFFFFFFFFFFFFF 0xFFFFFFFFFFFFFFFF 0xFFFFFFFFFFFFFFFF 0x0000000000002104) =
      (0x000000007FFFFFFF, 0xFFFFFFFF7FFFFFFF, 0xFFFFFFFF80000000) := by decide
/-- L2.5, K = 54, the first truncated entry. -/
theorem test_p5ld_54 :
    results (ran 0 0 0 0x0000000000360005) = (0x7E, 0x14E1878814C9CD8A, 0x33321216CBECFB24) := by decide +kernel
/-- L2.5, K = 325, the last legal index. -/
theorem test_p5ld_325 :
    results (ran 0 0 0 0x0000000001450005) = (0x2F3, 0x18B40A4EEC437C52, 0x78E1316E60A48310) := by decide +kernel
/-- L2.6, K = 0, the only 126-bit entry. -/
theorem test_p5ild_0 : results (ran 0 0 0 0x0000000000000006) = (1, 0x2000000000000000, 1) := by decide +kernel
/-- L2.6, K = 341, the last legal index. -/
theorem test_p5ild_341 :
    results (ran 0 0 0 0x0000000001550006) = (0x318, 0x12AB168CC36CACBF, 0x0958F94B348498A1) := by decide +kernel
/-- L2.7, exactly 1000 * 5^27; OPB and OPC are not read. -/
theorem test_mulshp5_exact :
    results (ran 0x3E8 8 9 0x00000000001B3E07) = (0, 0x193, 0xE5939A08CE9DBD48) := by decide +kernel
/-- L2.7, the top bit of the largest product. -/
theorem test_mulshp5_top : results (ran 0xFFFFFFFFFFFFFFFF 0 0 0x000000000145BC07) = (0, 0, 1) := by decide +kernel
/-- L2.8, 10^17 / 5^17. -/
theorem test_mulshp5i_exact : results (ran 0x016345785D8A0000 8 9 0x000000000011A408) = (0, 0, 0x20000) := by
  decide +kernel
/-- L2.8, largest K, full product. -/
theorem test_mulshp5i_full :
    results (ran 0xFFFFFFFFFFFFFFFF 0 0 0x0000000001550008) =
      (0x12AB168CC36CACBE, 0xF6ADE2BE7117EBE1, 0xF6A706B4CB7B675F) := by decide +kernel

/-! ### Rejection, STATUS, bus errors, reset -/

/-- L2.11 step 2: a rejected lookup keeps the results, LASTOP and the word, and answers OK. -/
theorem test_reject_keeps_results :
    let s := after { issue 0 0 0 (cmdWrite 0x0000000001900005) with res1 := 0x1900000000000000, res2 := 5, lastop := 5 }
    results s = (5, 0x1900000000000000, 0) ∧ statusView s = 0x0000000000050301 ∧ s.cmd = 0x0000000001900005 ∧
      s.replies = [⟨.ok, 0⟩] := by decide
/-- L2.11 step 3: a performed command does not clear ERR. -/
theorem test_err_is_sticky :
    statusView (after { issue 0 0 0 (cmdWrite 1) with err := true, ecause := 3, lastop := 5 }) =
      0x0000000000010301 := by decide
/-- L2.10: STATUS is write-1-to-clear on bit 0 only. -/
theorem test_status_write :
    statusView (after { issue 0 0 0 ⟨.write, 0x20, .b8, 1⟩ with err := true, ecause := 1, lastop := 5 }) = 0x50000 ∧
    statusView (after { issue 0 0 0 ⟨.write, 0x20, .b8, 0xFFFFFFFFFFFFFFFE⟩ with err := true, ecause := 1 }) =
      0x101 := by decide
/-- L2.10: the order of the bus-error checks. -/
theorem test_bus_errors :
    (after (issue 0 0 0 ⟨.read, 0x21, .b4, 0⟩)).replies = [⟨.busError .size, 0⟩] ∧
    (after (issue 0 0 0 ⟨.write, 0x2C, .b8, 0x1234⟩)).replies = [⟨.busError .align, 0⟩] ∧
    (after (issue 0 0 0 ⟨.write, 0x28, .b8, 0x1234⟩)).replies = [⟨.busError .ro, 0⟩] ∧
    (after (issue 7 0 0 ⟨.write, 0x00, .b1, 0xFF⟩)).opa = 7 := by decide
/-- L2.10: reads of CMD and STATUS. -/
theorem test_reads :
    (after { issue 0 0 0 ⟨.read, 0x20, .b8, 0⟩ with err := true, ecause := 1 }).replies = [⟨.ok, 0x101⟩] ∧
    (after { issue 0 0 0 ⟨.read, 0x18, .b8, 0⟩ with cmd := 5 }).replies = [⟨.ok, 5⟩] := by decide
/-- L2.12: reset clears everything. -/
theorem test_reset_clears :
    let s := after { issue 0x1234 5 6 (cmdWrite 0) with
      cmd := 0x105, err := true, ecause := 2, lastop := 7, res0 := 0xFFFFFFFFFFFFFFFF, inReset := true,
      pending := [.resetReleased] }
    s = State.reset := by decide
/-- R131: an interrupted CMD write has no effect and no response. -/
theorem test_interrupted_access :
    let s := after { issue 1 2 3 (cmdWrite 1) with pending := [.interruptedAccess (cmdWrite 1)] }
    s.replies = [] ∧ results s = (0, 0, 0) ∧ s.inReset = true := by decide
/-- R49: lane 0 carries the least significant byte. -/
theorem test_byte_lanes :
    byteLane 0x0123456789ABCDEF 0 = 0xEF ∧ byteLane 0x0123456789ABCDEF 7 = 0x01 ∧
      wordOfLanes 0xEF 0xCD 0xAB 0x89 0x67 0x45 0x23 0x01 = 0x0123456789ABCDEF := by decide
/-- R56: the codes of the signal table. -/
theorem test_signals :
    requestAccess ⟨true, true, 0x18, 3, 1⟩ = some (cmdWrite 1) ∧ requestAccess ⟨false, true, 0x18, 3, 1⟩ = none ∧
    replySignals ⟨.busError .ro, 0⟩ = ⟨true, true, 3, 0⟩ ∧ replySignals ⟨.ok, 5⟩ = ⟨true, false, 0, 5⟩ ∧
    rstEvent false true = some .resetAsserted := by decide

/-! ### The assembler (R69, R70; program P4 of 95_test_vectors.md) -/

/-- `cmd MULSHP5 sh=62 k=100 ; c` (program P2, step 12). -/
theorem test_assemble_cmd :
    assembleText ['c','m','d',' ','M','U','L','S','H','P','5',' ','s','h','=','6','2',' ','k','=','1','0','0',' ',';',' ','c'] =
      some [cmdWrite 0x0000000000643E07] := by decide
/-- `rdx 0x04, 8` and `wr OPB, 3` (programs P4 and P1). -/
theorem test_assemble_accesses :
    assembleText ['r','d','x',' ','0','x','0','4',',',' ','8','\n','w','r',' ','O','P','B',',',' ','3'] =
      some [⟨.read, 0x04, .b8, 0⟩, ⟨.write, 0x08, .b8, 3⟩] := by decide
/-- The assembler refuses `sh=` on P5LD and `wr` of a result register (R69). -/
theorem test_assemble_refuses :
    assembleStmt (.cmd .p5ld (some 1) (some 1)) = none ∧ assembleStmt (.wr .res0 1) = none ∧
      assembleStmt (.cmd .p5ld none (some 1024)) = none := by decide

/-! ### Witnesses: operands that meet the hypotheses of each statement -/

theorem witness_DecodeOfEncodeIsIdentity :
    wellFormed Config.defaultSizes (.mulshp5i 255 341) = true ∧ wellFormed Config.defaultSizes .mul128 = true := by decide
theorem witness_EncodeOfDecodeIsIdentity :
    decode Config.defaultSizes 0x000000000155FF08 = .cmd (.mulshp5i 255 341) := by decide
theorem witness_MatchMaskTableAgreesWithDecode_row :
    selectsRow 0x0000000001460005 .p5ld = true ∧ IndexBeyond Config.defaultSizes 0x0000000001460005 ∧
    selectsRow 0x0000000001450005 .p5ld = true ∧ ¬ IndexBeyond Config.defaultSizes 0x0000000001450005 := by
  unfold IndexBeyond; decide
theorem witness_MatchMaskTableAgreesWithDecode_none :
    ∀ m ∈ [Mnemonic.mul128, .shr128, .mod1e9, .mulsh, .p5ld, .p5ild, .mulshp5, .mulshp5i],
      selectsRow 0x0000000004000005 m = false := by decide
theorem witness_ExecuteChecksInOrder_illegal : OpIllegal 0 ∧ OpIllegal 9 ∧ ¬ OpIllegal 8 := by unfold OpIllegal; decide
theorem witness_ExecuteChecksInOrder_reserved :
    ¬ OpIllegal 0x0000000004000001 ∧ ReservedNonzero 0x0000000004000001 ∧ ReservedNonzero 0x0000000000000101 ∧
      ReservedNonzero 0x0000000000010004 ∧ ¬ ReservedNonzero 0x000000000000FF04 := by
  unfold OpIllegal ReservedNonzero; decide
theorem witness_ExecuteChecksInOrder_index :
    ¬ OpIllegal 0x0000000001560006 ∧ ¬ ReservedNonzero 0x0000000001560006 ∧
      IndexBeyond State.reset.sizes 0x0000000001560006 := by
  unfold OpIllegal ReservedNonzero IndexBeyond; decide
theorem witness_ExecuteChecksInOrder_performed :
    ¬ OpIllegal 0x0000000001550006 ∧ ¬ ReservedNonzero 0x0000000001550006 ∧
      ¬ IndexBeyond State.reset.sizes 0x0000000001550006 := by
  unfold OpIllegal ReservedNonzero IndexBeyond; decide

/-- A state in reset with one input pending. -/
def heldInReset (e : HostInput) : State := { State.reset with inReset := true, pending := [e] }

theorem witness_ResetLeavesEveryRegisterZero :
    (heldInReset .resetReleased).inReset = true ∧ (heldInReset .resetReleased).pending = .resetReleased :: [] :=
  ⟨rfl, rfl⟩
theorem witness_ResetLeavesEveryRegisterZero_asserted :
    ∃ s : State, s.inReset = false ∧ s.res0 ≠ 0 ∧ s.pending = .resetAsserted :: .resetReleased :: [] :=
  ⟨{ State.reset with res0 := 1, pending := [.resetAsserted, .resetReleased] }, rfl, by decide, rfl⟩
theorem witness_NoAccessAcceptedInReset :
    (heldInReset (.access (cmdWrite 1))).inReset = true ∧
      (heldInReset (.access (cmdWrite 1))).pending = .access (cmdWrite 1) :: [] := ⟨rfl, rfl⟩
theorem witness_ResetAbandonsAccess :
    ∃ s : State, s.pending = .interruptedAccess (cmdWrite 1) :: .resetReleased :: [] :=
  ⟨{ State.reset with pending := [.interruptedAccess (cmdWrite 1), .resetReleased] }, rfl⟩
theorem witness_ResetHoldsBlockCleared :
    ∃ s t, ClearedInReset s ∧ step s = .next t :=
  ⟨State.reset, State.reset, by simp [ClearedInReset, State.reset], rfl⟩
theorem witness_BusErrorsInOrder_size :
    Presents (issue 0 0 0 ⟨.read, 0x21, .b4, 0⟩) ⟨.read, 0x21, .b4, 0⟩ [] ∧ AccessSize.b4 ≠ .b8 :=
  ⟨issue_presents .., by decide⟩
theorem witness_BusErrorsInOrder_align :
    Presents (issue 0 0 0 ⟨.write, 0x3F, .b8, 0⟩) ⟨.write, 0x3F, .b8, 0⟩ [] ∧ (0x3F : BitVec 6).toNat % 8 ≠ 0 :=
  ⟨issue_presents .., by decide⟩
theorem witness_BusErrorsInOrder_ro :
    Presents (issue 0 0 0 ⟨.write, 0x28, .b8, 0⟩) ⟨.write, 0x28, .b8, 0⟩ [] ∧ (0x28 : BitVec 6).toNat % 8 = 0 ∧
      0x28 ≤ (0x28 : BitVec 6).toNat := ⟨issue_presents .., by decide, by decide⟩
theorem witness_BusErrorsInOrder_ok :
    Presents (issue 0 0 0 ⟨.write, 0x20, .b8, 0⟩) ⟨.write, 0x20, .b8, 0⟩ [] ∧ (0x20 : BitVec 6).toNat < 0x28 ∧
    Presents (issue 0 0 0 ⟨.read, 0x38, .b8, 0⟩) ⟨.read, 0x38, .b8, 0⟩ [] :=
  ⟨issue_presents .., by decide, issue_presents ..⟩
theorem witness_LegalWriteEffects :
    Presents (issue 0 0 0 ⟨.write, 0x00, .b8, 1⟩) ⟨.write, 0x00, .b8, 1⟩ [] ∧
    Presents (issue 0 0 0 ⟨.write, 0x08, .b8, 1⟩) ⟨.write, 0x08, .b8, 1⟩ [] ∧
    Presents (issue 0 0 0 ⟨.write, 0x10, .b8, 1⟩) ⟨.write, 0x10, .b8, 1⟩ [] ∧
    Presents (issue 0 0 0 ⟨.write, 0x18, .b8, 1⟩) ⟨.write, 0x18, .b8, 1⟩ [] ∧
    Presents (issue 0 0 0 ⟨.write, 0x20, .b8, 1⟩) ⟨.write, 0x20, .b8, 1⟩ [] ∧ (1 : Word).toNat % 2 = 1 ∧
    Presents (issue 0 0 0 ⟨.write, 0x20, .b8, 2⟩) ⟨.write, 0x20, .b8, 2⟩ [] ∧ (2 : Word).toNat % 2 = 0 :=
  ⟨issue_presents .., issue_presents .., issue_presents .., issue_presents .., issue_presents .., by decide,
    issue_presents .., by decide⟩
theorem witness_LegalReadReturnsRegister :
    (∀ r, Presents (issue 1 2 3 ⟨.read, offsetOf r, .b8, 0⟩) ⟨.read, offsetOf r, .b8, 0⟩ []) ∧
    (0x50301 : Word).toNat = (5 : Byte).toNat * 2 ^ 16 + (3 : Byte).toNat * 2 ^ 8 + 1 :=
  ⟨fun _ => issue_presents .., by decide⟩
theorem witness_StatusIsViewOfItsFields :
    (1 : Word).getLsbD 0 = true ∧ (0xFFFFFFFFFFFFFFFE : Word).getLsbD 0 = false ∧
    Presents (issue 0 0 0 ⟨.write, 0x20, .b8, 1⟩) ⟨.write, 0x20, .b8, 1⟩ [] ∧
    Presents (issue 0 0 0 ⟨.write, 0x20, .b8, 0xFFFFFFFFFFFFFFFE⟩) ⟨.write, 0x20, .b8, 0xFFFFFFFFFFFFFFFE⟩ [] :=
  ⟨by decide, by decide, issue_presents .., issue_presents ..⟩
theorem witness_RejectionRecordsCauseOnly :
    (∀ v, Presents (issue 0 0 0 ⟨.write, 0x18, .b8, v⟩) ⟨.write, 0x18, .b8, v⟩ []) ∧
    decode Config.defaultSizes 0 = .rejected .illegalOpcode ∧
    decode Config.defaultSizes 0x0000000000000101 = .rejected .reservedField ∧
    decode Config.defaultSizes 0x0000000003FF0005 = .rejected .indexRange :=
  ⟨fun _ => issue_presents .., by decide, by decide, by decide⟩
theorem witness_StepRunsDecodedCommand :
    Presents (issue 0 0 0 ⟨.write, 0x18, .b8, 1⟩) ⟨.write, 0x18, .b8, 1⟩ [] ∧
      decode (issue 0 0 0 ⟨.write, 0x18, .b8, 1⟩).sizes 1 = .cmd .mul128 := ⟨issue_presents .., by decide⟩
theorem witness_WindowStartsAtBase : Config.base + 64 ≤ Config.base + 64 ∧ Config.base < Config.base + 1 :=
  ⟨Nat.le_refl _, Nat.lt_succ_self _⟩
theorem witness_WellFormedCommandsArePerformed : wellFormed State.reset.sizes (.p5ild 341) = true := by decide
theorem witness_IndexBeyondTableIsRejected :
    State.reset.sizes.p5Count ≤ (326 : BitVec 10).toNat ∧ State.reset.sizes.p5iCount ≤ (342 : BitVec 10).toNat := by decide
theorem witness_StatusLegalKeptByEveryStep : ∃ s t, StatusLegal s ∧ step s = .next t :=
  ⟨State.reset, State.reset, ⟨by decide, by decide, by decide⟩, rfl⟩
theorem witness_ResultFitsLastopKeptByEveryStep : ∃ s t, ResultFitsLastop s ∧ step s = .next t :=
  ⟨State.reset, State.reset, by constructor <;> decide, rfl⟩
theorem witness_ErrIsSticky_cleared :
    let s := { issue 0 0 0 ⟨.write, 0x20, .b8, 1⟩ with err := true, ecause := 1 }
    s.err = true ∧ step s = .next (after s) ∧ (after s).err = false ∧ (1 : Word).getLsbD 0 = true ∧
      Presents s ⟨.write, 0x20, .b8, 1⟩ [] := ⟨rfl, rfl, by decide, by decide, ⟨rfl, rfl⟩⟩
theorem witness_ErrIsSticky_others :
    decode Config.defaultSizes 0 = .rejected .illegalOpcode ∧ decode Config.defaultSizes 1 = .cmd .mul128 ∧
      busCheck ⟨.write, 0x28, .b8, 0⟩ = some .ro := by decide
theorem witness_ResultsChangeOnlyByPerformedCommand :
    let s := issue 3 5 0 ⟨.write, 0x18, .b8, 1⟩
    step s = .next (after s) ∧ (after s).res0 ≠ s.res0 := ⟨rfl, by decide⟩
theorem witness_OperandsChangeOnlyByTheirWrite :
    (∀ r ∈ [WinReg.opa, .opb, .opc, .cmd],
      step (issue 3 5 7 ⟨.write, offsetOf r, .b8, 9⟩) = .next (after (issue 3 5 7 ⟨.write, offsetOf r, .b8, 9⟩)) ∧
      readReg r (after (issue 3 5 7 ⟨.write, offsetOf r, .b8, 9⟩)) ≠
        readReg r (issue 3 5 7 ⟨.write, offsetOf r, .b8, 9⟩)) ∧
    ∀ a, ¬ ResetEvent (issue 3 5 7 a) := by
  refine ⟨?_, fun a => ?_⟩
  · intro r hr
    simp only [List.mem_cons, List.not_mem_nil, or_false] at hr
    rcases hr with rfl | rfl | rfl | rfl <;> exact ⟨rfl, by decide⟩
  · rintro ⟨rest, h | ⟨b, h⟩ | ⟨-, h⟩⟩ <;> cases h
theorem witness_ConfigurationNeverChanges :
    step { State.reset with pending := [.resetAsserted] } =
      .next (after { State.reset with pending := [.resetAsserted] }) ∧
    (after { State.reset with pending := [.resetAsserted] }).inReset ≠
      ({ State.reset with pending := [.resetAsserted] } : State).inReset := ⟨rfl, by decide⟩
theorem witness_UnreadRegistersDoNotMatter :
    let s := issue 3 5 7 (cmdWrite 1)
    let s' := issue 3 6 8 (cmdWrite 2)
    s.sizes = s'.sizes ∧ wellFormed s.sizes (.mulshp5 1 2) = true ∧
      ∀ r ∈ operandsRead (mnemonicOf (.mulshp5 1 2)), readReg r s = readReg r s' := by decide
theorem witness_RepeatedAccessChangesNothingMore :
    ∃ s : State, s.inReset = false ∧ s.pending = .access (cmdWrite 1) :: .access (cmdWrite 1) :: [] :=
  ⟨{ State.reset with pending := [.access (cmdWrite 1), .access (cmdWrite 1)] }, rfl, rfl⟩
theorem witness_CheckBeforeUseIsSound_err :
    let s := issue 3 5 0 ⟨.write, 0x18, .b8, 1⟩
    Presents s ⟨.write, 0x18, .b8, 1⟩ [] ∧ step s = .next (after s) ∧ s.err = false ∧ (after s).err = false :=
  ⟨issue_presents .., rfl, rfl, by decide⟩
theorem witness_CheckBeforeUseIsSound_lastop :
    let s := { issue 3 5 0 ⟨.write, 0x18, .b8, 1⟩ with err := true, ecause := 1, lastop := 2 }
    Presents s ⟨.write, 0x18, .b8, 1⟩ [] ∧ step s = .next (after s) ∧ s.lastop.toNat ≠ opBits 1 ∧
      (after s).lastop.toNat = opBits 1 := ⟨⟨rfl, rfl⟩, rfl, by decide, by decide⟩
theorem witness_EveryAccessGetsOneReply :
    ∃ s : State, s.inReset = false ∧ s.pending = [cmdWrite 1, ⟨.read, 0x28, .b8, 0⟩].map .access :=
  ⟨withProgram State.reset [cmdWrite 1, ⟨.read, 0x28, .b8, 0⟩], rfl, rfl⟩
theorem witness_IdleBlockKeepsState : State.reset.pending = [] := rfl
theorem witness_ForwardEntryRule : pow5Length 53 ≤ 125 ∧ 125 < pow5Length 54 := by decide +kernel
theorem witness_LengthFitsRes2 :
    (325 : BitVec 10).toNat < State.reset.sizes.p5Count ∧ (341 : BitVec 10).toNat < State.reset.sizes.p5iCount := by decide
/-- Words of MUL128, MOD1E9, SHR128 and MULSH for each clause of their rejections. -/
theorem witness_PlainCommandRules_words :
    opBits 0x01 = 0x01 ∧ shBits 0x0101 ≠ 0 ∧ kBits 0x10001 ≠ 0 ∧ rsvBits 0x4000001 ≠ 0 ∧ shBits 0x01 = 0 ∧
    kBits 0x01 = 0 ∧ rsvBits 0x01 = 0 ∧ opBits 0x02 = 0x02 ∧ kBits 0x10002 ≠ 0 ∧ opBits 0x03 = 0x03 ∧
    opBits 0xFF04 = 0x04 ∧ kBits 0xFF04 = 0 ∧ rsvBits 0xFF04 = 0 := by decide
/-- Words of the four table commands for each clause of their rejections, at the last legal and the first illegal K. -/
theorem witness_TableCommandRules_words :
    opBits 0x01450005 = 0x05 ∧ kBits 0x01450005 < Config.defaultSizes.p5Count ∧
    Config.defaultSizes.p5Count ≤ kBits 0x01460005 ∧ shBits 0x0105 ≠ 0 ∧ rsvBits 0x04000005 ≠ 0 ∧
    opBits 0x01550006 = 0x06 ∧ kBits 0x01550006 < Config.defaultSizes.p5iCount ∧
    Config.defaultSizes.p5iCount ≤ kBits 0x01560006 ∧ opBits 0x0145BC07 = 0x07 ∧ opBits 0x0155FF08 = 0x08 ∧
    rsvBits 0x0155FF08 = 0 := by decide
/-- Operands of the corner cases: shift distances at the ends of their ranges, and the operands of the examples. -/
theorem witness_CommandRules_corners :
    (0 : BitVec 8).toNat = 0 ∧ (1 : BitVec 8).toNat = 1 ∧ (63 : BitVec 8).toNat ≤ 63 ∧ (64 : BitVec 8).toNat = 64 ∧
    (127 : BitVec 8).toNat = 127 ∧ 128 ≤ (128 : BitVec 8).toNat ∧ (191 : BitVec 8).toNat = 191 ∧
    192 ≤ (192 : BitVec 8).toNat ∧ 189 ≤ (189 : BitVec 8).toNat ∧
    (issue 0x1234567890ABCDEF 0x0F1E2D3C4B5A6978 0xFEDCBA0987654321 (cmdWrite 4)).opc = 0xFEDCBA0987654321 := by decide
theorem witness_FusedExactCases :
    (53 : BitVec 10).toNat ≤ 53 ∧ (1 : BitVec 8).toNat = 125 - pow5Length (53 : BitVec 10).toNat ∧
      (53 : BitVec 10).toNat < State.reset.sizes.p5Count := by decide +kernel
theorem witness_Mulshp5iRule_above :
    (164 : BitVec 8).toNat = pow5Length (17 : BitVec 10).toNat + 124 ∧ (0x016345785D8A0000 : Word).toNat = 10 ^ 17 := by
  decide +kernel
theorem witness_TableCommandRules_index :
    (0 : BitVec 10).toNat < State.reset.sizes.p5Count ∧ (325 : BitVec 10).toNat < State.reset.sizes.p5Count ∧
    (0 : BitVec 10).toNat < State.reset.sizes.p5iCount ∧ 0 < State.reset.sizes.p5iCount := by decide
theorem witness_ReciprocalEntryRange : 1 ≤ 1 ∧ 1 ≤ 1023 ∧ 1023 < 1024 := by decide
theorem witness_ReciprocalEntryRule : 0 < 1024 ∧ pow5Inv 0 = 0x20000000000000000000000000000001 := by decide +kernel
theorem witness_Shr128ByWords : 1 ≤ (1 : BitVec 8).toNat ∧ (1 : BitVec 8).toNat ≤ 63 ∧ 1 ≤ (63 : BitVec 8).toNat := by
  decide
theorem witness_CmdStatementEncodesItsFields :
    assembleStmt (.cmd .mulshp5i (some 255) (some 1023)) = some (cmdWrite 0x0000000003FFFF08) ∧
      usesSH .p5ld = false ∧ usesK .mulsh = false := by decide

end Sys2Proof.Machine
end

section
/-! The bit length of a power of five is the least exponent that bounds it (spec/00_scope.md R13). -/

namespace Sys2Proof.Machine

/-- One rule for comparing `L(k)` with a bound (R13). -/
theorem pow5Length_le_iff {k n : Nat} : pow5Length k ≤ n ↔ 5 ^ k < 2 ^ n := by
  constructor
  · intro hle
    calc 5 ^ k < 2 ^ pow5Length k := pow5_lt_two_pow_length k
      _ ≤ 2 ^ n := Nat.pow_le_pow_right two_pos hle
  · intro hlt
    have hpow : 2 ^ (pow5Length k - 1) < 2 ^ n := (two_pow_length_le_pow5 k).trans_lt hlt
    have hexp : pow5Length k - 1 < n := (Nat.pow_lt_pow_iff_right one_lt_two).mp hpow
    omega

/-- Settles O37: the comparison rule gives the bound and its leastness; the three values of R13 are computed. -/
theorem lengthIsLeastBound : Obligations.LengthIsLeastBound := by
  unfold Obligations.LengthIsLeastBound
  refine ⟨fun k => ⟨?bounds, fun n hlt => ?least⟩, by decide, by decide, by decide⟩
  case bounds => exact pow5_lt_two_pow_length k
  case least => exact pow5Length_le_iff.mpr hlt

end Sys2Proof.Machine
end

section
/-! The ranges of the table entries and of the quotients (spec/40_pow5.md R80, R81, R86; 42_mulshift.md R100 to R102). -/

namespace Sys2Proof.Machine

/-- Every forward entry has exactly 125 significant bits, in both forms of R80. -/
theorem pow5_bounds (k : Nat) : 2 ^ 124 ≤ pow5 k ∧ pow5 k < 2 ^ 125 := by
  have hlow := two_pow_length_le_pow5 k
  have hhigh := pow5_lt_two_pow_length k
  have hpos := pow5Length_pos k
  unfold pow5 p5BitCount
  split
  next hexact =>
    constructor
    · calc 2 ^ 124 = 2 ^ (pow5Length k - 1) * 2 ^ (125 - pow5Length k) := by rw [← pow_add]; congr 1; omega
        _ ≤ 5 ^ k * 2 ^ (125 - pow5Length k) := Nat.mul_le_mul_right _ hlow
    · calc 5 ^ k * 2 ^ (125 - pow5Length k) < 2 ^ pow5Length k * 2 ^ (125 - pow5Length k) :=
            Nat.mul_lt_mul_of_pos_right hhigh (by positivity)
        _ = 2 ^ 125 := by rw [← pow_add]; congr 1; omega
  next htruncated =>
    constructor
    · rw [Nat.le_div_iff_mul_le (by positivity), ← pow_add,
        show 124 + (pow5Length k - 125) = pow5Length k - 1 by omega]
      exact hlow
    · rw [Nat.div_lt_iff_lt_mul (by positivity), ← pow_add,
        show 125 + (pow5Length k - 125) = pow5Length k by omega]
      exact hhigh

/-- Every reciprocal entry is above `2^124` and at most `2^125 + 1` (R81). -/
theorem pow5Inv_bounds (k : Nat) : 2 ^ 124 < pow5Inv k ∧ pow5Inv k ≤ 2 ^ 125 + 1 := by
  have hpos := pow5Length_pos k
  have hfive : 0 < 5 ^ k := by positivity
  have hlow : 2 ^ 124 ≤ 2 ^ (pow5Length k - 1 + 125) / 5 ^ k := by
    rw [Nat.le_div_iff_mul_le hfive]
    calc 2 ^ 124 * 5 ^ k ≤ 2 ^ 124 * 2 ^ pow5Length k := Nat.mul_le_mul_left _ (pow5_lt_two_pow_length k).le
      _ = 2 ^ (pow5Length k - 1 + 125) := by rw [← pow_add]; congr 1; omega
  have hhigh : 2 ^ (pow5Length k - 1 + 125) / 5 ^ k ≤ 2 ^ 125 := by
    apply Nat.div_le_of_le_mul
    rw [pow_add]
    exact Nat.mul_le_mul_right _ (two_pow_length_le_pow5 k)
  unfold pow5Inv p5BitCount
  omega

/-- The length of every power a K field can name (R86). -/
theorem pow5Length_le_of_field (k : BitVec 10) : pow5Length k.toNat ≤ 2376 := by
  have hk := k.isLt
  have hlast : 5 ^ (93 * 11) < 2 ^ (216 * 11) := by
    rw [pow_mul, pow_mul]
    exact Nat.pow_lt_pow_left (by norm_num) (by norm_num)
  calc pow5Length k.toNat ≤ pow5Length (93 * 11) := pow5Length_mono (by omega)
    _ ≤ 216 * 11 := pow5Length_le_iff.mpr hlast

/-- The word that P5LD and P5ILD write to RES2 is the length itself. -/
theorem pow5Length_word_toNat (k : BitVec 10) :
    (BitVec.ofNat 64 (pow5Length k.toNat)).toNat = pow5Length k.toNat := by
  have h := pow5Length_le_of_field k
  rw [BitVec.toNat_ofNat, Nat.mod_eq_of_lt (by omega)]

theorem mulShift_le {m f a b : Nat} (sh : Nat) (hm : m ≤ a) (hf : f ≤ b) : mulShift m f sh ≤ a * b :=
  (Nat.div_le_self _ _).trans (Nat.mul_le_mul hm hf)

theorem word_le (w : Word) : w.toNat ≤ 2 ^ 64 - 1 := Nat.le_sub_one_of_lt w.isLt

theorem factorF_le (s : State) : factorF s ≤ 2 ^ 128 - 1 := Nat.le_sub_one_of_lt (joinWords_lt _ _)

/-- The result is its high word above its two low words (R30, R50). -/
theorem resultValue_eq_joinWords (s : State) : resultValue s = s.res2.toNat * 2 ^ 128 + joinWords s.res1 s.res0 :=
  Nat.add_assoc _ _ _

/-- A quotient below `2^192` is read back whole from the result registers (R100). -/
theorem resultValue_performedQuotient {q : Nat} (hq : q < 2 ^ 192) (op : Byte) (s : State) :
    resultValue (performedQuotient op q s) = q := limbs_value hq

end Sys2Proof.Machine
end

section
/-! The range that a performed command gives its results, and what LASTOP tells of them (spec/10_state.md R29, R30). -/

namespace Sys2Proof.Machine

/-- The range that the rule of a command gives its result words: the clause of `ResultFitsLastop` for one row of R64. -/
def ResultRange (t : State) : Mnemonic → Prop
  | .mul128 => resultValue t ≤ (2 ^ 64 - 1) ^ 2
  | .shr128 => t.res2 = 0
  | .mod1e9 => t.res0.toNat ≤ 999999999 ∧ t.res1 = 0 ∧ t.res2 = 0
  | .mulsh => resultValue t ≤ (2 ^ 64 - 1) * (2 ^ 128 - 1)
  | .p5ld =>
    2 ^ 124 ≤ joinWords t.res1 t.res0 ∧ joinWords t.res1 t.res0 < 2 ^ 125 ∧ 1 ≤ t.res2.toNat ∧ t.res2.toNat ≤ 2376
  | .p5ild =>
    2 ^ 124 < joinWords t.res1 t.res0 ∧ joinWords t.res1 t.res0 ≤ 2 ^ 125 + 1 ∧ 1 ≤ t.res2.toNat ∧ t.res2.toNat ≤ 2376
  | .mulshp5 => resultValue t < 2 ^ 189
  | .mulshp5i => resultValue t < 2 ^ 190

theorem opcodeOf_injective {m n : Mnemonic} (h : opcodeOf m = opcodeOf n) : m = n := by
  simpa using congrArg mnemonicOfOpcode h

theorem opcodeOf_ne_zero (m : Mnemonic) : opcodeOf m ≠ 0 := by
  cases m <;> decide

theorem resultRange_of_lastop {t : State} {m n : Mnemonic} (hr : ResultRange t m) (hop : t.lastop = opcodeOf m)
    (hn : t.lastop = opcodeOf n) : ResultRange t n := by
  cases opcodeOf_injective (hop.symm.trans hn)
  exact hr

/-- Once LASTOP names a command, only that command's range is asked for. -/
theorem resultFitsLastop_of_resultRange {t : State} {m : Mnemonic} (hop : t.lastop = opcodeOf m)
    (hr : ResultRange t m) : ResultFitsLastop t where
  none h := absurd (hop.symm.trans h) (opcodeOf_ne_zero m)
  mul128 := resultRange_of_lastop (n := .mul128) hr hop
  shr128 := resultRange_of_lastop (n := .shr128) hr hop
  mod1e9 := resultRange_of_lastop (n := .mod1e9) hr hop
  mulsh := resultRange_of_lastop (n := .mulsh) hr hop
  p5ld := resultRange_of_lastop (n := .p5ld) hr hop
  p5ild := resultRange_of_lastop (n := .p5ild) hr hop
  mulshp5 := resultRange_of_lastop (n := .mulshp5) hr hop
  mulshp5i := resultRange_of_lastop (n := .mulshp5i) hr hop

/-- A step that writes neither the results nor LASTOP keeps what LASTOP tells of the results. -/
theorem ResultFitsLastop.of_unchanged {s t : State} (hs : ResultFitsLastop s) (h0 : t.res0 = s.res0)
    (h1 : t.res1 = s.res1) (h2 : t.res2 = s.res2) (hop : t.lastop = s.lastop) : ResultFitsLastop t := by
  obtain ⟨hnone, hmul128, hshr128, hmod1e9, hmulsh, hp5ld, hp5ild, hmulshp5, hmulshp5i⟩ := hs
  constructor <;> simpa only [resultValue, h0, h1, h2, hop]

theorem AtResetValues.resultFitsLastop {t : State} (h : AtResetValues t) : ResultFitsLastop t := by
  constructor <;> simp [h.lastop, h.res0, h.res1, h.res2]

theorem ResultRange.of_unchanged {s t : State} {m : Mnemonic} (hs : ResultRange s m) (h0 : t.res0 = s.res0)
    (h1 : t.res1 = s.res1) (h2 : t.res2 = s.res2) : ResultRange t m := by
  cases m <;> simpa only [ResultRange, resultValue, h0, h1, h2] using hs

/-- A performed command leaves its results in the range of its rule (R82, R83, R90 to R92, R100 to R102). -/
theorem exec_resultRange {i : Instr} {s t : State} (hw : wellFormed s.sizes i = true) (h : exec i s = .next t) :
    ResultRange t (mnemonicOf i) := by
  cases i with
  | mul128 =>
    cases h
    have hle : s.opa.toNat * s.opb.toNat ≤ (2 ^ 64 - 1) * (2 ^ 64 - 1) := Nat.mul_le_mul (word_le _) (word_le _)
    rw [mnemonicOf, ResultRange, resultValue_eq_joinWords, performed_res0, performed_res1, performed_res2,
      joinWords_limbs (hle.trans_lt (by norm_num)), sq]
    simpa using hle
  | shr128 sh =>
    cases h
    rfl
  | mod1e9 =>
    cases h
    refine ⟨?_, rfl, rfl⟩
    simp only [performed_res0, BitVec.toNat_ofNat]
    omega
  | mulsh sh =>
    cases h
    have hle := mulShift_le sh.toNat (word_le s.opa) (factorF_le s)
    rw [mnemonicOf, ResultRange, resultValue_performedQuotient (hle.trans_lt (by norm_num))]
    exact hle
  | p5ld k =>
    rw [exec, execP5ld, if_pos (of_decide_eq_true hw)] at h
    cases h
    obtain ⟨hlow, hhigh⟩ := pow5_bounds k.toNat
    simp only [mnemonicOf, ResultRange, performed_res0, performed_res1, performed_res2, pow5Length_word_toNat]
    rw [joinWords_limbs (hhigh.trans (by norm_num))]
    exact ⟨hlow, hhigh, pow5Length_pos _, pow5Length_le_of_field k⟩
  | p5ild k =>
    rw [exec, execP5ild, if_pos (of_decide_eq_true hw)] at h
    cases h
    obtain ⟨hlow, hhigh⟩ := pow5Inv_bounds k.toNat
    simp only [mnemonicOf, ResultRange, performed_res0, performed_res1, performed_res2, pow5Length_word_toNat]
    rw [joinWords_limbs (hhigh.trans_lt (by norm_num))]
    exact ⟨hlow, hhigh, pow5Length_pos _, pow5Length_le_of_field k⟩
  | mulshp5 sh k =>
    rw [exec, execMulshp5, if_pos (of_decide_eq_true hw)] at h
    cases h
    have hle := mulShift_le sh.toNat (word_le s.opa) (Nat.le_sub_one_of_lt (pow5_bounds k.toNat).2)
    rw [mnemonicOf, ResultRange, resultValue_performedQuotient (hle.trans_lt (by norm_num))]
    exact hle.trans_lt (by norm_num)
  | mulshp5i sh k =>
    rw [exec, execMulshp5i, if_pos (of_decide_eq_true hw)] at h
    cases h
    have hle := mulShift_le sh.toNat (word_le s.opa) (pow5Inv_bounds k.toNat).2
    rw [mnemonicOf, ResultRange, resultValue_performedQuotient (hle.trans_lt (by norm_num))]
    exact hle.trans_lt (by norm_num)

end Sys2Proof.Machine
end

section
/-! What each kind of step does to STATUS, the results and the operands: the rules behind the invariants of
spec/10_state.md R22 to R30. -/

namespace Sys2Proof.Machine

/-! ### Running a command word -/

/-- A command word is rejected, or decodes to a command whose opcode goes to LASTOP and whose results are in its range; ERR
and ECAUSE then stay (R27, R29, R111). -/
theorem execute_outcome {v : Word} {s t : State} (h : execute v s = .next t) :
    (∃ c, decode s.sizes v = .rejected c ∧ t = reject c s) ∨
    (∃ i, decode s.sizes v = .cmd i ∧ t.lastop = opcodeOf (mnemonicOf i) ∧ ResultRange t (mnemonicOf i) ∧
      t.err = s.err ∧ t.ecause = s.ecause) := by
  cases hd : decode s.sizes v with
  | rejected c =>
    simp only [execute, hd] at h
    cases h
    exact .inl ⟨c, rfl, rfl⟩
  | cmd i =>
    simp only [execute, hd] at h
    have hw := (decode_wellFormed hd).1
    have hrange := exec_resultRange hw h
    rcases exec_cases i s with ⟨-, r0, r1, r2, hperf⟩ | ⟨hill, -⟩
    · rw [hperf] at h
      cases h
      exact .inr ⟨i, rfl, rfl, hrange, rfl, rfl⟩
    · simp [hill] at hw

/-- Whatever a command word does, it writes no operand register and not CMD (R22 to R25). -/
theorem execute_keeps_operands {v : Word} {s t : State} (h : execute v s = .next t) :
    t.opa = s.opa ∧ t.opb = s.opb ∧ t.opc = s.opc ∧ t.cmd = s.cmd := by
  rcases execute_cases v s with ⟨i, r0, r1, r2, -, hrun⟩ | ⟨c, hrun⟩ <;>
    (rw [hrun] at h; cases h; exact ⟨rfl, rfl, rfl, rfl⟩)

/-! ### The step that takes a given input -/

theorem step_statusWrite {s : State} {v : Word} {rest : List HostInput} (h : Presents s ⟨.write, 0x20, .b8, v⟩ rest) :
    step s = .next (giveReply ⟨.ok, 0⟩ (statusWrite v { s with pending := rest })) :=
  (step_of_presents h).trans (hostAccess_write .status v _ nofun nofun nofun)

/-- The step that takes a CMD write stores the word, runs it and replies OK (R44, R60). -/
theorem step_cmdWrite {s : State} {v : Word} {rest : List HostInput} (h : Presents s ⟨.write, 0x18, .b8, v⟩ rest) :
    ∃ u, execute v (setCmd v { s with pending := rest }) = .next u ∧ step s = .next (giveReply ⟨.ok, 0⟩ u) := by
  have hstep : step s = thenReply ⟨.ok, 0⟩ (execute v (setCmd v { s with pending := rest })) :=
    (step_of_presents h).trans (hostAccess_write .cmd v _ nofun nofun nofun)
  rcases execute_cases v (setCmd v { s with pending := rest }) with ⟨i, r0, r1, r2, -, hrun⟩ | ⟨c, hrun⟩ <;>
    exact ⟨_, hrun, by rw [hstep, hrun, thenReply]⟩

theorem step_busError {s : State} {a : Access} {kind : BusErrorKind} {rest : List HostInput} (h : Presents s a rest)
    (hk : busCheck a = some kind) :
    step s = .next (giveReply ⟨.busError kind, 0⟩ { s with pending := rest }) := by
  rw [step_of_presents h]
  simp [hostAccess, hk]

theorem step_resetAsserted {s : State} {rest : List HostInput} (hp : s.pending = .resetAsserted :: rest) :
    step s = .next (assertReset { s with pending := rest }) := by
  rw [← dropInput_of_pending hp]
  simp [step, nextInput, handleInput, hp]

theorem step_resetReleased {s : State} {rest : List HostInput} (hr : s.inReset = true)
    (hp : s.pending = .resetReleased :: rest) :
    step s = .next (releaseReset { s with pending := rest }) := by
  rw [← dropInput_of_pending hp]
  simp [step, nextInput, handleInput, hp, hr]

/-! ### What any step can do to STATUS and the results -/

/-- The STATUS fields and the result registers are as before. -/
structure KeepsStatusAndResults (s t : State) : Prop where
  err : t.err = s.err
  ecause : t.ecause = s.ecause
  lastop : t.lastop = s.lastop
  res0 : t.res0 = s.res0
  res1 : t.res1 = s.res1
  res2 : t.res2 = s.res2

theorem KeepsBlock.keepsStatusAndResults {s t : State} (h : KeepsBlock s t) : KeepsStatusAndResults s t :=
  ⟨h.err, h.ecause, h.lastop, h.res0, h.res1, h.res2⟩

/-- A step leaves STATUS and the results alone, resets them, takes a STATUS write, rejects a command word, or performs a
decoded command: operand writes, reads and bus errors are of the first kind. -/
theorem step_statusAndResults {s t : State} (h : step s = .next t) :
    KeepsStatusAndResults s t ∨
    (AtResetValues t ∧ ResetEvent s) ∨
    (∃ v rest, Presents s ⟨.write, 0x20, .b8, v⟩ rest ∧ KeepsStatusAndResults (statusWrite v s) t) ∨
    (∃ c, KeepsStatusAndResults (reject c s) t) ∨
    (∃ v rest i, Presents s ⟨.write, 0x18, .b8, v⟩ rest ∧ decode s.sizes v = .cmd i ∧
      t.lastop = opcodeOf (mnemonicOf i) ∧ ResultRange t (mnemonicOf i) ∧ t.err = s.err ∧ t.ecause = s.ecause) := by
  rcases step_block h with ⟨hk, -⟩ | ⟨hz, -, he⟩ |
    ⟨v, rest, -, -, ⟨-, hk⟩ | ⟨-, hk⟩ | ⟨-, hk⟩ | ⟨hp, hk⟩ | ⟨hp, u, hrun, hk⟩⟩
  · exact .inl hk.keepsStatusAndResults
  · exact .inr (.inl ⟨hz, he⟩)
  · exact .inl ⟨hk.err, hk.ecause, hk.lastop, hk.res0, hk.res1, hk.res2⟩
  · exact .inl ⟨hk.err, hk.ecause, hk.lastop, hk.res0, hk.res1, hk.res2⟩
  · exact .inl ⟨hk.err, hk.ecause, hk.lastop, hk.res0, hk.res1, hk.res2⟩
  · exact .inr (.inr (.inl ⟨v, rest, hp, hk.keepsStatusAndResults⟩))
  · rcases execute_outcome hrun with ⟨c, -, rfl⟩ | ⟨i, hd, hop, hrange, herr, hcause⟩
    · exact .inr (.inr (.inr (.inl ⟨c, hk.err, hk.ecause, hk.lastop, hk.res0, hk.res1, hk.res2⟩)))
    · exact .inr (.inr (.inr (.inr ⟨v, rest, i, hp, hd, hk.lastop.trans hop,
        hrange.of_unchanged hk.res0 hk.res1 hk.res2, hk.err.trans herr, hk.ecause.trans hcause⟩)))

end Sys2Proof.Machine
end

section
/-! The invariants of the state (spec/10_state.md R26 to R31, R34). -/

namespace Sys2Proof.Machine

/-! ### The results fit LASTOP -/

/-- Settles O26: only a performed command and a reset write the results and LASTOP, and each leaves them in range. -/
theorem resultFitsLastopKeptByEveryStep : Obligations.ResultFitsLastopKeptByEveryStep := by
  unfold Obligations.ResultFitsLastopKeptByEveryStep
  intro s t hs h
  rcases step_statusAndResults h with hk | ⟨hz, -⟩ | ⟨v, rest, -, hk⟩ | ⟨c, hk⟩ | ⟨v, rest, i, -, -, hop, hrange, -⟩
  case inl => exact hs.of_unchanged hk.res0 hk.res1 hk.res2 hk.lastop
  case inr.inl => exact hz.resultFitsLastop
  case inr.inr.inl =>
    exact hs.of_unchanged (by simp [hk.res0]) (by simp [hk.res1]) (by simp [hk.res2]) (by simp [hk.lastop])
  case inr.inr.inr.inl => exact hs.of_unchanged hk.res0 hk.res1 hk.res2 hk.lastop
  case inr.inr.inr.inr => exact resultFitsLastop_of_resultRange hop hrange

theorem atResetValues_reset : AtResetValues State.reset := ⟨rfl, rfl, rfl, rfl, rfl, rfl, rfl, rfl, rfl, rfl⟩

/-- Settles O27: `State.reset` holds the reset values. -/
theorem resultFitsLastopAtReset : Obligations.ResultFitsLastopAtReset :=
  atResetValues_reset.resultFitsLastop

/-! ### The STATUS fields are legal -/

theorem AtResetValues.statusLegal {t : State} (h : AtResetValues t) : StatusLegal t := by
  constructor <;> simp [h.err, h.ecause, h.lastop]

theorem causeCode_legal (c : Cause) : causeCode c ≠ 0 ∧ (causeCode c).toNat ≤ 3 := by
  cases c <;> decide

theorem opcodeOf_le (m : Mnemonic) : (opcodeOf m).toNat ≤ 8 := by
  cases m <;> decide

/-- A STATUS write leaves ERR and ECAUSE as they were or clears both (R45). -/
theorem StatusLegal.statusWrite {s : State} (hs : StatusLegal s) (v : Word) : StatusLegal (statusWrite v s) := by
  cases hbit : v.getLsbD 0 with
  | false => rwa [statusWrite_of_clear hbit]
  | true =>
    rw [statusWrite_of_set hbit]
    exact ⟨by simp, by simp, hs.lastopRange⟩

/-- A rejection sets ERR together with a cause that is not 0 (R111, R112). -/
theorem StatusLegal.reject {s : State} (hs : StatusLegal s) (c : Cause) : StatusLegal (reject c s) :=
  ⟨by simpa using (causeCode_legal c).1, (causeCode_legal c).2, hs.lastopRange⟩

theorem StatusLegal.of_unchanged {s t : State} (hs : StatusLegal s) (he : t.err = s.err) (hc : t.ecause = s.ecause)
    (hop : t.lastop.toNat ≤ 8) : StatusLegal t :=
  ⟨by rw [he, hc]; exact hs.causeOfErr, by rw [hc]; exact hs.causeRange, hop⟩

theorem KeepsStatusAndResults.statusLegal {s t : State} (hk : KeepsStatusAndResults s t) (hs : StatusLegal s) :
    StatusLegal t :=
  hs.of_unchanged hk.err hk.ecause (by rw [hk.lastop]; exact hs.lastopRange)

/-- Settles O24: a STATUS write and a rejection write ERR and ECAUSE together, and a command writes an assigned opcode. -/
theorem statusLegalKeptByEveryStep : Obligations.StatusLegalKeptByEveryStep := by
  unfold Obligations.StatusLegalKeptByEveryStep
  intro s t hs h
  rcases step_statusAndResults h with hk | ⟨hz, -⟩ | ⟨v, rest, -, hk⟩ | ⟨c, hk⟩ | ⟨v, rest, i, -, -, hop, -, he, hc⟩
  case inl => exact hk.statusLegal hs
  case inr.inl => exact hz.statusLegal
  case inr.inr.inl => exact hk.statusLegal (hs.statusWrite v)
  case inr.inr.inr.inl => exact hk.statusLegal (hs.reject c)
  case inr.inr.inr.inr => exact hs.of_unchanged he hc (hop ▸ opcodeOf_le _)

/-- Settles O25: `State.reset` holds the reset values. -/
theorem statusLegalAtReset : Obligations.StatusLegalAtReset := atResetValues_reset.statusLegal

/-! ### STATUS as a view of its fields (R26) -/

/-- The STATUS view as a number. -/
theorem statusView_toNat (s : State) :
    (statusView s).toNat = s.lastop.toNat * 2 ^ 16 + s.ecause.toNat * 2 ^ 8 + s.err.toNat := by
  have herr := s.err.toNat_lt
  have hcause := s.ecause.isLt
  have hop := s.lastop.isLt
  simp only [statusView, BitVec.toNat_setWidth, BitVec.toNat_append, BitVec.toNat_ofBool]
  rw [← Nat.shiftLeft_add_eq_or_of_lt hcause, ← Nat.shiftLeft_add_eq_or_of_lt (BitVec.isLt _),
    ← Nat.shiftLeft_add_eq_or_of_lt herr]
  simp only [Nat.shiftLeft_eq, BitVec.ofNat_eq_ofNat, BitVec.toNat_ofNat]
  omega

theorem AtResetValues.statusView {t : State} (h : AtResetValues t) : statusView t = 0 := by
  simp [Machine.statusView, h.err, h.ecause, h.lastop]

/-- Settles O16: the fields are read off the view's number, and a STATUS write is `statusWrite`. -/
theorem statusIsViewOfItsFields : Obligations.StatusIsViewOfItsFields := by
  unfold Obligations.StatusIsViewOfItsFields
  refine ⟨fun s => ?fields, fun s v rest h => ?write, atResetValues_reset.statusView⟩
  case fields =>
    have hview := statusView_toNat s
    have herr := s.err.toNat_lt
    have hcause := s.ecause.isLt
    have hop := s.lastop.isLt
    refine ⟨?bit0, ?zeros, ?cause, ?op, ?above⟩
    case bit0 =>
      have hbit : (statusView s).toNat % 2 = s.err.toNat := by omega
      rw [BitVec.getLsbD, Nat.testBit_zero, hbit]
      cases s.err <;> rfl
    all_goals
      apply BitVec.eq_of_toNat_eq
      simp only [BitVec.extractLsb'_toNat, Nat.shiftRight_eq_div_pow, hview, BitVec.ofNat_eq_ofNat, BitVec.toNat_ofNat]
      omega
  case write =>
    refine ⟨_, step_statusWrite h, fun hset => ?_, fun hclear => ?_, by simp⟩
    · simp [statusWrite_of_set hset]
    · simp [statusWrite_of_clear hclear]

/-! ### ERR is sticky (R27) -/

/-- Settles O28: of the five things a step can do to STATUS, only a reset and a STATUS write with bit 0 = 1 clear ERR. -/
theorem errIsSticky : Obligations.ErrIsSticky := by
  unfold Obligations.ErrIsSticky
  refine ⟨fun s t h hset hclear => ?sticky, fun s v rest hp hbit => ?cleared, fun s v c rest hp hd => ?rejected,
    fun s v i rest hp hd => ?performed, fun s a k rest hp hb => ?busError⟩
  case sticky =>
    rcases step_statusAndResults h with hk | ⟨-, he⟩ | ⟨v, rest, hp, hk⟩ | ⟨c, hk⟩ | ⟨v, rest, i, -, -, -, -, he, -⟩
    · simp [hk.err, hset] at hclear
    · exact .inl he
    · exact .inr ⟨v, rest, hp, by simpa [hk.err, hset] using hclear⟩
    · simp [hk.err] at hclear
    · simp [he, hset] at hclear
  case cleared => exact ⟨_, step_statusWrite hp, by simp [hbit]⟩
  case rejected =>
    obtain ⟨u, hrun, hstep⟩ := step_cmdWrite hp
    rcases execute_outcome hrun with ⟨c', -, rfl⟩ | ⟨i, hd', -⟩
    · exact ⟨_, hstep, rfl⟩
    · simp [hd] at hd'
  case performed =>
    obtain ⟨u, hrun, hstep⟩ := step_cmdWrite hp
    rcases execute_outcome hrun with ⟨c, hd', -⟩ | ⟨i', -, -, -, he, -⟩
    · simp [hd] at hd'
    · exact ⟨_, hstep, he⟩
  case busError => exact ⟨_, step_busError hp hb, rfl⟩

/-! ### What changes the results, the operands and the configuration -/

/-- Settles O29: of the five things a step can do, only a reset and a performed command write the results or LASTOP. -/
theorem resultsChangeOnlyByPerformedCommand : Obligations.ResultsChangeOnlyByPerformedCommand := by
  unfold Obligations.ResultsChangeOnlyByPerformedCommand
  intro s t h hne
  rcases step_statusAndResults h with hk | ⟨-, he⟩ | ⟨v, rest, -, hk⟩ | ⟨c, hk⟩ | ⟨v, rest, i, hp, hd, hop, -⟩
  case inl => exact absurd ⟨hk.res0, hk.res1, hk.res2, hk.lastop⟩ hne
  case inr.inl => exact .inl he
  case inr.inr.inl =>
    exact absurd ⟨by simp [hk.res0], by simp [hk.res1], by simp [hk.res2], by simp [hk.lastop]⟩ hne
  case inr.inr.inr.inl => exact absurd ⟨hk.res0, hk.res1, hk.res2, hk.lastop⟩ hne
  case inr.inr.inr.inr => exact .inr ⟨v, rest, i, hp, hd, hop⟩

/-- Settles O30: each legal write stores the one register it names, and a command word stores only CMD. -/
theorem operandsChangeOnlyByTheirWrite : Obligations.OperandsChangeOnlyByTheirWrite := by
  unfold Obligations.OperandsChangeOnlyByTheirWrite
  intro s t h hno
  rcases step_block h with ⟨hk, -⟩ | ⟨-, -, he⟩ |
    ⟨v, rest, -, -, ⟨hp, hk⟩ | ⟨hp, hk⟩ | ⟨hp, hk⟩ | ⟨-, hk⟩ | ⟨hp, u, hrun, hk⟩⟩
  · exact ⟨absurd hk.opa, absurd hk.opb, absurd hk.opc, absurd hk.cmd⟩
  · exact absurd he hno
  · exact ⟨fun _ => ⟨rest, hk.opa ▸ hp⟩, absurd hk.opb, absurd hk.opc, absurd hk.cmd⟩
  · exact ⟨absurd hk.opa, fun _ => ⟨rest, hk.opb ▸ hp⟩, absurd hk.opc, absurd hk.cmd⟩
  · exact ⟨absurd hk.opa, absurd hk.opb, fun _ => ⟨rest, hk.opc ▸ hp⟩, absurd hk.cmd⟩
  · simp [hk.opa, hk.opb, hk.opc, hk.cmd]
  · obtain ⟨ha, hb, hc, hcmd⟩ := execute_keeps_operands hrun
    exact ⟨absurd (hk.opa.trans ha), absurd (hk.opb.trans hb), absurd (hk.opc.trans hc),
      fun _ => ⟨rest, (hk.cmd.trans hcmd) ▸ hp⟩⟩

/-- Settles O31: every kind of step keeps the sizes, and all but a reset event keep the level. -/
theorem configurationNeverChanges : Obligations.ConfigurationNeverChanges := by
  unfold Obligations.ConfigurationNeverChanges
  intro s t h
  rcases step_block h with ⟨-, hz, hi⟩ | ⟨-, hz, he⟩ | ⟨v, rest, hi, hz, -⟩
  · exact ⟨hz, absurd hi⟩
  · exact ⟨hz, fun _ => he⟩
  · exact ⟨hz, absurd hi⟩

/-! ### Reset (R34, R130) -/

theorem atResetValues_releaseReset (s : State) : AtResetValues (releaseReset s) :=
  ⟨rfl, rfl, rfl, rfl, rfl, rfl, rfl, rfl, rfl, rfl⟩

/-- The step that releases a reset leaves the reset values and touches nothing of the host's. -/
theorem step_released_values {s : State} {rest : List HostInput} (hr : s.inReset = true)
    (hp : s.pending = .resetReleased :: rest) :
    ∃ t, step s = .next t ∧ AtResetValues t ∧ statusView t = 0 ∧ t.inReset = false ∧ t.sizes = s.sizes ∧
      t.replies = s.replies ∧ t.pending = rest :=
  ⟨_, step_resetReleased hr hp, atResetValues_releaseReset _, (atResetValues_releaseReset _).statusView,
    rfl, rfl, rfl, rfl⟩

/-- Settles O9: the release gives the reset values, after an assertion of the same list or on a level already high. -/
theorem resetLeavesEveryRegisterZero : Obligations.ResetLeavesEveryRegisterZero := by
  unfold Obligations.ResetLeavesEveryRegisterZero
  refine ⟨atResetValues_reset, atResetValues_reset.statusView, fun s rest hp => ?asserted, fun s rest => ?released⟩
  case asserted =>
    obtain ⟨u, hu⟩ := step_released_values (s := assertReset { s with pending := .resetReleased :: rest }) rfl rfl
    exact ⟨_, u, step_resetAsserted hp, rfl, hu⟩
  case released => exact step_released_values

end Sys2Proof.Machine
end

section
/-! The register window: byte lanes, offsets, and what each access of the host does (spec/20_memory.md R40 to R51). -/

namespace Sys2Proof.Machine

/-! ### The window and its byte lanes (R41, R49) -/

/-- Settles O19: the offset of an address in the window fits 6 bits, so it is presented whole. -/
theorem windowStartsAtBase : Obligations.WindowStartsAtBase := by
  unfold Obligations.WindowStartsAtBase
  refine ⟨fun off => ?inside, fun n hn => ?outside⟩
  case inside =>
    have hoff := off.isLt
    rw [presentedOffset, if_pos ⟨Nat.le_add_right _ _, by omega⟩, Nat.add_sub_cancel_left, BitVec.ofNat_toNat,
      BitVec.setWidth_eq]
  case outside => exact if_neg (by omega)

theorem byteLane_toNat (v : Word) (i : Nat) : (byteLane v i).toNat = v.toNat / 2 ^ (8 * i) % 2 ^ 8 := by
  rw [byteLane, BitVec.extractLsb'_toNat, Nat.shiftRight_eq_div_pow]

/-- Neighbouring lanes, put together from the highest down, are the bits they cover; all eight cover the word (R49). -/
theorem wordOfLanes_byteLane (v : Word) :
    wordOfLanes (byteLane v 0) (byteLane v 1) (byteLane v 2) (byteLane v 3) (byteLane v 4) (byteLane v 5)
      (byteLane v 6) (byteLane v 7) = v := by
  simp only [wordOfLanes, byteLane]
  iterate 7 rw [BitVec.extractLsb'_append_extractLsb'_eq_extractLsb' (by rfl)]
  exact BitVec.extractLsb'_eq_self

/-- Settles O20: a lane is read as a number, and the eight lanes are joined from the highest down. -/
theorem byteLanesAreLittleEndian : Obligations.ByteLanesAreLittleEndian :=
  fun v => ⟨fun i _ => byteLane_toNat v i, wordOfLanes_byteLane v⟩

/-! ### Legal reads and writes (R44 to R46) -/

theorem step_read {s : State} {r : WinReg} {w : Word} {rest : List HostInput}
    (h : Presents s ⟨.read, offsetOf r, .b8, w⟩ rest) :
    step s = .next (giveReply ⟨.ok, readReg r s⟩ { s with pending := rest }) := by
  rw [step_of_presents h, hostAccess_read]
  cases r <;> rfl

/-- Settles O15: one read rule for the eight registers; STATUS reads as the number of its view (R26, R46). -/
theorem legalReadReturnsRegister : Obligations.LegalReadReturnsRegister := by
  unfold Obligations.LegalReadReturnsRegister
  intro s off w rest h value hvalue
  rcases hvalue with ⟨rfl, rfl⟩ | ⟨rfl, rfl⟩ | ⟨rfl, rfl⟩ | ⟨rfl, rfl⟩ | ⟨rfl, hview⟩ | ⟨rfl, rfl⟩ | ⟨rfl, rfl⟩ |
    ⟨rfl, rfl⟩
  · exact step_read (r := .opa) h
  · exact step_read (r := .opb) h
  · exact step_read (r := .opc) h
  · exact step_read (r := .cmd) h
  · have hstatus : value = statusView s := by
      apply BitVec.eq_of_toNat_eq
      rw [hview, statusView_toNat, Bool.toNat, Bool.cond_eq_ite]
    exact hstatus ▸ step_read (r := .status) h
  · exact step_read (r := .res0) h
  · exact step_read (r := .res1) h
  · exact step_read (r := .res2) h

theorem step_write {s : State} {r : WinReg} {v : Word} {rest : List HostInput}
    (h : Presents s ⟨.write, offsetOf r, .b8, v⟩ rest) (h0 : r ≠ .res0) (h1 : r ≠ .res1) (h2 : r ≠ .res2) :
    step s = thenReply ⟨.ok, 0⟩ (writeReg r v { s with pending := rest }) :=
  (step_of_presents h).trans (hostAccess_write r v _ h0 h1 h2)

/-- A command word always has a next state, whether it is performed or rejected. -/
theorem execute_next (v : Word) (s : State) : ∃ t, execute v s = .next t := by
  rcases execute_cases v s with ⟨i, r0, r1, r2, -, hrun⟩ | ⟨c, hrun⟩ <;> exact ⟨_, hrun⟩

/-- Running a command word leaves the host's two lists as they are. -/
theorem execute_keeps_host {v : Word} {s t : State} (h : execute v s = .next t) :
    t.replies = s.replies ∧ t.pending = s.pending := by
  rcases execute_cases v s with ⟨i, r0, r1, r2, -, hrun⟩ | ⟨c, hrun⟩ <;>
    (rw [hrun] at h; cases h; exact ⟨rfl, rfl⟩)

/-- Settles O14: one write rule for the five registers; CMD also needs that running its word gives no reply of its own. -/
theorem legalWriteEffects : Obligations.LegalWriteEffects := by
  unfold Obligations.LegalWriteEffects
  intro s v rest
  refine ⟨fun h => ?opa, fun h => ?opb, fun h => ?opc, fun h => ?cmd, fun h => ⟨fun hodd => ?clears, fun heven => ?ignored⟩⟩
  case opa => exact step_write (r := .opa) h nofun nofun nofun
  case opb => exact step_write (r := .opb) h nofun nofun nofun
  case opc => exact step_write (r := .opc) h nofun nofun nofun
  case cmd =>
    obtain ⟨t, hrun, hstep⟩ := step_cmdWrite h
    have hreplies : t.replies = s.replies := (execute_keeps_host hrun).1
    exact ⟨t, hrun, by rw [hstep, giveReply, hreplies]⟩
  case clears =>
    have hbit : v.getLsbD 0 = true := by simp [BitVec.getLsbD, hodd]
    rw [step_statusWrite h, statusWrite_of_set hbit, giveReply]
  case ignored =>
    have hbit : v.getLsbD 0 = false := by simp [BitVec.getLsbD, heven]
    rw [step_statusWrite h, statusWrite_of_clear hbit, giveReply]

/-- Settles O18: a CMD write runs `Execute`, which is `exec` on a decoded command; a word fits the 64 bits it is cut to. -/
theorem stepRunsDecodedCommand : Obligations.StepRunsDecodedCommand := by
  unfold Obligations.StepRunsDecodedCommand
  refine ⟨fun s i v rest h hd => ?runs, fun s v => ⟨rfl, ?presented⟩⟩
  case runs =>
    have hrun : execute v { s with cmd := v, pending := rest } = exec i { s with cmd := v, pending := rest } := by
      simp only [execute, hd]
    rw [← hrun]
    exact step_write (r := .cmd) h nofun nofun nofun
  case presented =>
    have hword : BitVec.ofNat 64 (v.toNat % 2 ^ 64) = v := by
      rw [Nat.mod_eq_of_lt v.isLt, BitVec.ofNat_toNat, BitVec.setWidth_eq]
    rw [State.withFetchWord, hword, cmdWrite]

/-! ### The checks of an access (R42, R43, R114) -/

/-- Among the register offsets, the three of the result registers are those from 0x28 on (R41). -/
theorem result_offset_iff {off : BitVec 6} (haligned : off.toNat % 8 = 0) :
    (off = 0x28 ∨ off = 0x30 ∨ off = 0x38) ↔ 0x28 ≤ off.toNat := by
  have hoff := off.isLt
  simp only [BitVec.toNat_eq, BitVec.ofNat_eq_ofNat, BitVec.toNat_ofNat]
  omega

theorem busCheck_of_wrong_size {a : Access} (hsize : a.size ≠ .b8) : busCheck a = some .size := if_pos hsize

theorem busCheck_of_misaligned {a : Access} (hsize : a.size = .b8) (halign : a.off.toNat % 8 ≠ 0) :
    busCheck a = some .align := by
  rw [busCheck, if_neg (not_not_intro hsize), if_pos halign]

theorem busCheck_of_aligned {a : Access} (hsize : a.size = .b8) (halign : a.off.toNat % 8 = 0) :
    busCheck a = if a.dir = .write ∧ 0x28 ≤ a.off.toNat then some .ro else none := by
  rw [busCheck, if_neg (not_not_intro hsize), if_neg (not_not_intro halign)]
  simp only [result_offset_iff halign]

/-- A register write always has a next state, and leaves the host's two lists as they are. -/
theorem writeReg_next (r : WinReg) (v : Word) (s : State) :
    ∃ t, writeReg r v s = .next t ∧ t.replies = s.replies ∧ t.pending = s.pending := by
  cases r with
  | opa | opb | opc | res0 | res1 | res2 => exact ⟨_, rfl, rfl, rfl⟩
  | status => exact ⟨_, rfl, statusWrite_replies v s, statusWrite_pending v s⟩
  | cmd =>
    obtain ⟨t, hrun⟩ := execute_next v (setCmd v s)
    obtain ⟨hreplies, hpending⟩ := execute_keeps_host hrun
    exact ⟨t, hrun, hreplies, hpending⟩

/-- An access that passes the checks answers OK once, whatever it reads, writes or runs (R43, R44). -/
theorem hostAccess_ok {a : Access} (s : State) (hcheck : busCheck a = none) :
    ∃ t rdata, hostAccess a s = .next t ∧ t.replies = s.replies ++ [⟨.ok, rdata⟩] ∧ t.pending = s.pending := by
  cases hdir : a.dir with
  | read => exact ⟨giveReply ⟨.ok, readReg (regAt a.off) s⟩ s, _, by simp only [hostAccess, hcheck, hdir], rfl, rfl⟩
  | write =>
    obtain ⟨t, hwrite, hreplies, hpending⟩ := writeReg_next (regAt a.off) a.wdata s
    exact ⟨giveReply ⟨.ok, 0⟩ t, 0, by simp only [hostAccess, hcheck, hdir, hwrite, thenReply], by simp [hreplies],
      hpending⟩

/-- Settles O13: the first check that fails is the bus error of the reply; an access that fails none answers OK. -/
theorem busErrorsInOrder : Obligations.BusErrorsInOrder := by
  unfold Obligations.BusErrorsInOrder
  intro s a rest h
  refine ⟨fun hsize => ?size, fun hsize halign => ?align, fun hsize halign hdir hoff => ?ro,
    fun hsize halign hlegal => ?ok⟩
  case size => exact step_busError h (busCheck_of_wrong_size hsize)
  case align => exact step_busError h (busCheck_of_misaligned hsize halign)
  case ro => exact step_busError h (by rw [busCheck_of_aligned hsize halign, if_pos ⟨hdir, hoff⟩])
  case ok =>
    have hwritable : ¬ (a.dir = .write ∧ 0x28 ≤ a.off.toNat) := by
      rintro ⟨hdir, hoff⟩
      rcases hlegal with hread | hlow
      · simp [hread] at hdir
      · omega
    rw [step_of_presents h]
    exact hostAccess_ok _ (by rw [busCheck_of_aligned hsize halign, if_neg hwritable])

/-! ### A host program (R47, R51, R139) -/

/-- Settles O35, by induction on the accesses: each step takes one, adds its one reply and stays out of reset. -/
theorem everyAccessGetsOneReply : Obligations.EveryAccessGetsOneReply := by
  unfold Obligations.EveryAccessGetsOneReply
  intro accesses
  induction accesses with
  | nil =>
    intro s _ hp
    exact ⟨s, [], rfl, by simp [ended, hp], by simp, rfl⟩
  | cons a as ih =>
    intro s hr hp
    obtain ⟨r, u, haccess, hreplies, hpending, hlevel, -⟩ := hostAccess_host a { s with pending := as.map .access }
    have hstep : step s = .next u := (step_of_presents ⟨hr, hp⟩).trans haccess
    obtain ⟨t, new, hrun, hended, htail, hlen⟩ := ih u (hlevel.trans hr) hpending
    exact ⟨t, r :: new, (run_succ hstep).trans hrun, hended, by simp [htail, hreplies], by simp [hlen]⟩

end Sys2Proof.Machine
end

section
/-! The fields of a command word read as numbers, and the decoder's answer in their terms (spec/30_encoding.md R60 to R66). -/

namespace Sys2Proof.Machine

/-! ### The fields of a word (R61) -/

@[simp] theorem opField_toNat (v : Word) : (opField v).toNat = opBits v := by
  simp [opField, opBits, BitVec.extractLsb'_toNat]

@[simp] theorem shField_toNat (v : Word) : (shField v).toNat = shBits v := by
  rw [shField, shBits, BitVec.extractLsb'_toNat, Nat.shiftRight_eq_div_pow]

@[simp] theorem kField_toNat (v : Word) : (kField v).toNat = kBits v := by
  rw [kField, kBits, BitVec.extractLsb'_toNat, Nat.shiftRight_eq_div_pow]

@[simp] theorem rsvField_toNat (v : Word) : (rsvField v).toNat = rsvBits v := by
  have hlt : v.toNat / 2 ^ 26 < 2 ^ 38 := Nat.div_lt_of_lt_mul v.isLt
  rw [rsvField, rsvBits, BitVec.extractLsb'_toNat, Nat.shiftRight_eq_div_pow, Nat.mod_eq_of_lt hlt]

/-- Two words are equal exactly when their four fields are (R61). -/
theorem word_eq_iff_fields {v w : Word} :
    v = w ↔ opField v = opField w ∧ shField v = shField w ∧ kField v = kField w ∧ rsvField v = rsvField w := by
  refine ⟨fun h => h ▸ ⟨rfl, rfl, rfl, rfl⟩, fun ⟨hop, hsh, hk, hrsv⟩ => BitVec.eq_of_toNat_eq ?_⟩
  rw [word_toNat_fields v, word_toNat_fields w, hop, hsh, hk, hrsv]

/-! ### The opcode map on numbers (R64, R65) -/

theorem mnemonicOfOpcode_eq_none_iff {op : BitVec 8} :
    mnemonicOfOpcode op = none ↔ op.toNat = 0 ∨ 9 ≤ op.toNat := by
  constructor
  · intro h
    by_contra hlegal
    unfold mnemonicOfOpcode at h
    simp only [BitVec.toNat_eq, BitVec.ofNat_eq_ofNat, BitVec.toNat_ofNat] at h
    split_ifs at h
    omega
  · intro hillegal
    cases h : mnemonicOfOpcode op with
    | none => rfl
    | some m =>
      have hop := opcodeOf_of_mnemonicOfOpcode h
      have hpos : (opcodeOf m).toNat ≠ 0 := fun h0 => opcodeOf_ne_zero m (BitVec.eq_of_toNat_eq h0)
      have hle := opcodeOf_le m
      rw [hop] at hpos hle
      omega

theorem mnemonicOfOpcode_eq_some_iff {op : BitVec 8} {m : Mnemonic} :
    mnemonicOfOpcode op = some m ↔ opcodeOf m = op :=
  ⟨opcodeOf_of_mnemonicOfOpcode, fun h => h ▸ mnemonicOfOpcode_opcodeOf m⟩

theorem usesSH_eq_false_iff (m : Mnemonic) : usesSH m = false ↔ (opcodeOf m).toNat ∈ [1, 3, 5, 6] := by
  cases m <;> decide

theorem usesK_eq_false_iff (m : Mnemonic) : usesK m = false ↔ (opcodeOf m).toNat ∈ [1, 2, 3, 4] := by
  cases m <;> decide

/-! ### The causes on numbers (R112) -/

theorem mnemonicOfOpcode_opField_eq_none_iff {v : Word} : mnemonicOfOpcode (opField v) = none ↔ OpIllegal v := by
  rw [mnemonicOfOpcode_eq_none_iff, opField_toNat, OpIllegal]

theorem opcode_toNat_eq_opBits {v : Word} {m : Mnemonic} (hm : mnemonicOfOpcode (opField v) = some m) :
    (opcodeOf m).toNat = opBits v := by
  rw [mnemonicOfOpcode_eq_some_iff.mp hm, opField_toNat]

theorem not_opIllegal_of_mnemonic {v : Word} {m : Mnemonic} (hm : mnemonicOfOpcode (opField v) = some m) :
    ¬ OpIllegal v := by
  rw [← mnemonicOfOpcode_opField_eq_none_iff, hm]
  nofun

theorem field_ne_zero_iff {w : Nat} (b : BitVec w) : b ≠ 0 ↔ b.toNat ≠ 0 := by
  simp [BitVec.toNat_eq]

theorem reservedSet_iff {v : Word} {m : Mnemonic} (hm : mnemonicOfOpcode (opField v) = some m) :
    reservedSet m v = true ↔ ReservedNonzero v := by
  simp only [reservedSet, ReservedNonzero, Bool.or_eq_true, Bool.and_eq_true, Bool.not_eq_true', decide_eq_true_eq,
    usesSH_eq_false_iff, usesK_eq_false_iff, opcode_toNat_eq_opBits hm, field_ne_zero_iff, rsvField_toNat,
    shField_toNat, kField_toNat, or_assoc]

theorem beyondTable_iff (c : TableSizes) {v : Word} {m : Mnemonic} (hm : mnemonicOfOpcode (opField v) = some m) :
    beyondTable c m (kField v) = true ↔ IndexBeyond c v := by
  rw [IndexBeyond, ← opcode_toNat_eq_opBits hm, ← kField_toNat]
  cases m <;> simp [beyondTable, kBound, opcodeOf]

end Sys2Proof.Machine
end

section
/-! The decoder and the encoder undo each other, and each answer of the decoder has its exact condition (spec/30_encoding.md
R60, R63 to R68). -/

namespace Sys2Proof.Machine

/-! ### The word of a command (R63) -/

theorem encodedFields (i : Instr) : Laws.EncodedFields.Statement i := by
  cases i with
  | mul128 => exact Laws.EncodedFields.mul128
  | shr128 sh => exact Laws.EncodedFields.shr128 sh
  | mod1e9 => exact Laws.EncodedFields.mod1e9
  | mulsh sh => exact Laws.EncodedFields.mulsh sh
  | p5ld k => exact Laws.EncodedFields.p5ld k
  | p5ild k => exact Laws.EncodedFields.p5ild k
  | mulshp5 sh k => exact Laws.EncodedFields.mulshp5 sh k
  | mulshp5i sh k => exact Laws.EncodedFields.mulshp5i sh k

/-- The decoder on the word of any command: only the index can be rejected (R60). -/
theorem decode_encode (c : TableSizes) (i : Instr) :
    decode c (encode i) = if wellFormed c i then .cmd i else .rejected .indexRange := by
  obtain ⟨hop, hsh, hk, -, hreserved⟩ := encodedFields i
  simp only [decode, hop, hsh, hk, hreserved, mnemonicOfOpcode_opcodeOf, beyondTable_eq_not_wellFormed,
    instrOf_mnemonicOf]
  cases wellFormed c i <;> rfl

/-- Settles O1: the word's fields are the command's, so only the index check is left, and a well-formed command passes it. -/
theorem decodeOfEncodeIsIdentity : Obligations.DecodeOfEncodeIsIdentity := by
  unfold Obligations.DecodeOfEncodeIsIdentity
  intro c i hw
  rw [decode_encode, if_pos hw]

/-- Settles O3: the sum fits the word; the three examples are computed. -/
theorem encodeIsSumOfFields : Obligations.EncodeIsSumOfFields :=
  ⟨encodeFields_toNat, by decide, by decide, by decide⟩

/-- Settles O8: the eight words are decoded. -/
theorem specWordsDecode : Obligations.SpecWordsDecode := by
  unfold Obligations.SpecWordsDecode
  decide

/-! ### The command of a word (R60, R66, R67) -/

/-- No reserved bit is set: RSV is 0, and so is each field the opcode does not use (R66). -/
theorem reservedSet_eq_false_iff {m : Mnemonic} {v : Word} :
    reservedSet m v = false ↔
      rsvField v = 0 ∧ (usesSH m = false → shField v = 0) ∧ (usesK m = false → kField v = 0) := by
  cases hsh : usesSH m <;> cases hk : usesK m <;> simp [reservedSet, hsh, hk, and_assoc]

theorem shOf_instrOf {m : Mnemonic} {sh : BitVec 8} (k : BitVec 10) (h : usesSH m = false → sh = 0) :
    shOf (instrOf m sh k) = sh := by
  cases m with
  | mul128 | mod1e9 | p5ld | p5ild => exact (h rfl).symm
  | shr128 | mulsh | mulshp5 | mulshp5i => rfl

theorem kOf_instrOf {m : Mnemonic} (sh : BitVec 8) {k : BitVec 10} (h : usesK m = false → k = 0) :
    kOf (instrOf m sh k) = k := by
  cases m with
  | mul128 | shr128 | mod1e9 | mulsh => exact (h rfl).symm
  | p5ld | p5ild | mulshp5 | mulshp5i => rfl

/-- A decoded command has the word's own fields, and the word's RSV is 0 (R61, R67). -/
theorem decode_cmd_fields {c : TableSizes} {v : Word} {i : Instr} (hd : decode c v = .cmd i) :
    opcodeOf (mnemonicOf i) = opField v ∧ shOf i = shField v ∧ kOf i = kField v ∧ rsvField v = 0 := by
  rcases decode_cases c v with ⟨-, h⟩ | ⟨m, -, -, h⟩ | ⟨m, -, -, -, h⟩ | ⟨m, -, hr, -, h⟩
  · simp [h] at hd
  · simp [h] at hd
  · simp [h] at hd
  · obtain ⟨hrsv, hsh, hk⟩ := reservedSet_eq_false_iff.mp hr
    have hop := (decode_wellFormed hd).2
    rw [h] at hd
    cases hd
    exact ⟨hop, shOf_instrOf _ hsh, kOf_instrOf _ hk, hrsv⟩

/-- Settles O2: the word and the encoding of its command agree field by field. -/
theorem encodeOfDecodeIsIdentity : Obligations.EncodeOfDecodeIsIdentity := by
  unfold Obligations.EncodeOfDecodeIsIdentity
  intro c v i hd
  obtain ⟨hop, hsh, hk, hrsv⟩ := decode_cmd_fields hd
  obtain ⟨hop', hsh', hk', hrsv', -⟩ := encodedFields i
  refine ⟨word_eq_iff_fields.mpr ⟨?_, ?_, ?_, ?_⟩, (decode_wellFormed hd).1⟩
  · exact hop'.trans hop
  · exact hsh'.trans hsh
  · exact hk'.trans hk
  · exact hrsv'.trans hrsv.symm

/-! ### The condition of each answer (R60, R65, R66) -/

/-- The four answers of the decoder, by the conditions the causes are stated with (R112). -/
theorem decode_branches (c : TableSizes) (v : Word) :
    (OpIllegal v ∧ decode c v = .rejected .illegalOpcode) ∨
    (¬ OpIllegal v ∧ ReservedNonzero v ∧ decode c v = .rejected .reservedField) ∨
    (¬ OpIllegal v ∧ ¬ ReservedNonzero v ∧ IndexBeyond c v ∧ decode c v = .rejected .indexRange) ∨
    (¬ OpIllegal v ∧ ¬ ReservedNonzero v ∧ ¬ IndexBeyond c v ∧ ∃ i, decode c v = .cmd i) := by
  rcases decode_cases c v with ⟨hm, h⟩ | ⟨m, hm, hr, h⟩ | ⟨m, hm, hr, hb, h⟩ | ⟨m, hm, hr, hb, h⟩
  · exact .inl ⟨mnemonicOfOpcode_opField_eq_none_iff.mp hm, h⟩
  · exact .inr (.inl ⟨not_opIllegal_of_mnemonic hm, (reservedSet_iff hm).mp hr, h⟩)
  · rw [← Bool.not_eq_true, reservedSet_iff hm] at hr
    exact .inr (.inr (.inl ⟨not_opIllegal_of_mnemonic hm, hr, (beyondTable_iff c hm).mp hb, h⟩))
  · rw [← Bool.not_eq_true] at hr hb
    rw [reservedSet_iff hm] at hr
    rw [beyondTable_iff c hm] at hb
    exact .inr (.inr (.inr ⟨not_opIllegal_of_mnemonic hm, hr, hb, _, h⟩))

theorem opIllegal_iff_decode (c : TableSizes) (v : Word) :
    OpIllegal v ↔ decode c v = .rejected .illegalOpcode := by
  rcases decode_branches c v with ⟨hop, h⟩ | ⟨hop, -, h⟩ | ⟨hop, -, -, h⟩ | ⟨hop, -, -, i, h⟩ <;> simp [hop, h]

theorem reservedNonzero_iff_decode (c : TableSizes) (v : Word) :
    ¬ OpIllegal v ∧ ReservedNonzero v ↔ decode c v = .rejected .reservedField := by
  rcases decode_branches c v with ⟨hop, h⟩ | ⟨hop, hr, h⟩ | ⟨hop, hr, -, h⟩ | ⟨hop, hr, -, i, h⟩
  · simp [hop, h]
  · simp [hop, hr, h]
  · simp [hr, h]
  · simp [hr, h]

theorem decode_indexRange {c : TableSizes} {v : Word} (hop : ¬ OpIllegal v) (hr : ¬ ReservedNonzero v)
    (hb : IndexBeyond c v) : decode c v = .rejected .indexRange := by
  rcases decode_branches c v with ⟨h, -⟩ | ⟨-, h, -⟩ | ⟨-, -, -, h⟩ | ⟨-, -, h, -⟩
  · exact absurd h hop
  · exact absurd h hr
  · exact h
  · exact absurd hb h

/-- A word that passes every check is its command, with the word's own OP, SH and K (R60, R62). -/
theorem decode_performed {c : TableSizes} {v : Word} (hop : ¬ OpIllegal v) (hr : ¬ ReservedNonzero v)
    (hb : ¬ IndexBeyond c v) :
    ∃ i, decode c v = .cmd i ∧ (opcodeOf (mnemonicOf i)).toNat = opBits v ∧ (shOf i).toNat = shBits v ∧
      (kOf i).toNat = kBits v := by
  rcases decode_branches c v with ⟨h, -⟩ | ⟨-, h, -⟩ | ⟨-, -, h, -⟩ | ⟨-, -, -, i, h⟩
  · exact absurd h hop
  · exact absurd h hr
  · exact absurd h hb
  · obtain ⟨hi, hsh, hk, -⟩ := decode_cmd_fields h
    exact ⟨i, h, by rw [hi, opField_toNat], by rw [hsh, shField_toNat], by rw [hk, kField_toNat]⟩

/-- Settles O5: the two conditions of the decoder; the word 0 has OP = 0. -/
theorem illegalAndReservedWordsRejected : Obligations.IllegalAndReservedWordsRejected :=
  fun c v => ⟨opIllegal_iff_decode c v, reservedNonzero_iff_decode c v, (opIllegal_iff_decode c 0).mp (.inl rfl)⟩

/-! ### The match/mask table (R64) -/

/-- The mask keeps OP and RSV, and SH and K where the opcode does not use them. -/
theorem rowMask_fields (m : Mnemonic) :
    opField (rowMask m) = BitVec.allOnes 8 ∧ shField (rowMask m) = (if usesSH m then 0 else BitVec.allOnes 8) ∧
      kField (rowMask m) = (if usesK m then 0 else BitVec.allOnes 10) ∧ rsvField (rowMask m) = BitVec.allOnes 38 := by
  cases m <;> decide

theorem rowMatch_fields (m : Mnemonic) :
    opField (rowMatch m) = opcodeOf m ∧ shField (rowMatch m) = 0 ∧ kField (rowMatch m) = 0 ∧ rsvField (rowMatch m) = 0 := by
  cases m <;> decide

/-- Each field of a conjunction is the conjunction of the fields. -/
theorem word_and_fields (v w : Word) :
    opField (v &&& w) = opField v &&& opField w ∧ shField (v &&& w) = shField v &&& shField w ∧
      kField (v &&& w) = kField v &&& kField w ∧ rsvField (v &&& w) = rsvField v &&& rsvField w :=
  ⟨BitVec.extractLsb'_and, BitVec.extractLsb'_and, BitVec.extractLsb'_and, BitVec.extractLsb'_and⟩

/-- A field under a mask that covers it exactly when it is unused is 0 exactly when an unused field is 0. -/
theorem masked_field_eq_zero_iff {w : Nat} (b : BitVec w) (used : Bool) :
    b &&& (if used then 0 else BitVec.allOnes w) = 0 ↔ (used = false → b = 0) := by
  cases used <;> simp

/-- A word selects a row exactly when it has the row's opcode and no reserved bit or unused field set (R64, R66). -/
theorem selectsRow_iff {v : Word} {m : Mnemonic} :
    selectsRow v m = true ↔ mnemonicOfOpcode (opField v) = some m ∧ reservedSet m v = false := by
  obtain ⟨hop, hsh, hk, hrsv⟩ := rowMask_fields m
  obtain ⟨hop', hsh', hk', hrsv'⟩ := rowMatch_fields m
  obtain ⟨hopv, hshv, hkv, hrsvv⟩ := word_and_fields v (rowMask m)
  rw [selectsRow, decide_eq_true_eq, word_eq_iff_fields, hopv, hshv, hkv, hrsvv, hop, hsh, hk, hrsv, hop', hsh', hk',
    hrsv', masked_field_eq_zero_iff, masked_field_eq_zero_iff, BitVec.and_allOnes, BitVec.and_allOnes,
    mnemonicOfOpcode_eq_some_iff, reservedSet_eq_false_iff, eq_comm (a := opField v)]
  tauto

theorem selectsRow_of_checks {v : Word} (hop : ¬ OpIllegal v) (hr : ¬ ReservedNonzero v) :
    ∃ m, selectsRow v m = true := by
  rw [← mnemonicOfOpcode_opField_eq_none_iff] at hop
  obtain ⟨m, hm⟩ := Option.ne_none_iff_exists'.mp hop
  rw [← reservedSet_iff hm, Bool.not_eq_true] at hr
  exact ⟨m, selectsRow_iff.mpr ⟨hm, hr⟩⟩

/-- Settles O6: a row is selected by its opcode and by passing the reserved-field check, so only the K bound is left. -/
theorem matchMaskTableAgreesWithDecode : Obligations.MatchMaskTableAgreesWithDecode := by
  unfold Obligations.MatchMaskTableAgreesWithDecode
  intro c v
  refine ⟨fun m m' h h' => ?unique, fun m h => ?row, fun hnone => ?noRow⟩
  case unique =>
    have hm := (selectsRow_iff.mp h).1
    have hm' := (selectsRow_iff.mp h').1
    exact Option.some.inj (hm.symm.trans hm')
  case row =>
    obtain ⟨hm, hr⟩ := selectsRow_iff.mp h
    have hop := not_opIllegal_of_mnemonic hm
    rw [← Bool.not_eq_true, reservedSet_iff hm] at hr
    refine ⟨decode_indexRange hop hr, fun hb => ?_⟩
    obtain ⟨i, hd, hi, hsh, hk⟩ := decode_performed hop hr hb
    have hrow : mnemonicOf i = m :=
      opcodeOf_injective (BitVec.eq_of_toNat_eq (hi.trans (opcode_toNat_eq_opBits hm).symm))
    exact ⟨i, hd, hrow, opcode_toNat_eq_opBits hm, hsh, hk⟩
  case noRow =>
    by_cases hop : OpIllegal v
    · exact .inl ((opIllegal_iff_decode c v).mp hop)
    by_cases hr : ReservedNonzero v
    · exact .inr ((reservedNonzero_iff_decode c v).mp ⟨hop, hr⟩)
    obtain ⟨m, hm⟩ := selectsRow_of_checks hop hr
    simp [hnone m] at hm

/-! ### Running a word (R60) -/

theorem execute_of_rejected {v : Word} {s : State} {c : Cause} (h : decode s.sizes v = .rejected c) :
    execute v s = .next (reject c s) := by
  simp only [execute, h]

theorem execute_of_cmd {v : Word} {s : State} {i : Instr} (h : decode s.sizes v = .cmd i) :
    execute v s = exec i s := by
  simp only [execute, h]

theorem keepsAllButResult_performed (op : Byte) (r0 r1 r2 : Word) (s : State) :
    KeepsAllButResult s (performed op r0 r1 r2 s) :=
  ⟨rfl, rfl, rfl, rfl, rfl, rfl, rfl, rfl, rfl, rfl⟩

/-- A well-formed command is performed under its own opcode, and keeps all but the results and LASTOP (R29, R30). -/
theorem exec_of_wellFormed {i : Instr} {s : State} (hw : wellFormed s.sizes i = true) :
    ∃ t, exec i s = .next t ∧ t.lastop = opcodeOf (mnemonicOf i) ∧ KeepsAllButResult s t := by
  rcases exec_cases i s with ⟨-, r0, r1, r2, h⟩ | ⟨hill, -⟩
  · exact ⟨_, h, rfl, keepsAllButResult_performed _ r0 r1 r2 s⟩
  · simp [hill] at hw

/-- Settles O7: each cause is rejected by its code, and a word that passes the checks runs its own command. -/
theorem executeChecksInOrder : Obligations.ExecuteChecksInOrder := by
  unfold Obligations.ExecuteChecksInOrder
  intro s v
  refine ⟨fun hop => ?illegal, fun hop hr => ?reserved, fun hop hr hb => ?index, fun hop hr hb => ?performed⟩
  case illegal => exact execute_of_rejected ((opIllegal_iff_decode _ v).mp hop)
  case reserved => exact execute_of_rejected ((reservedNonzero_iff_decode _ v).mp ⟨hop, hr⟩)
  case index => exact execute_of_rejected (decode_indexRange hop hr hb)
  case performed =>
    obtain ⟨i, hd, hi, hsh, hk⟩ := decode_performed hop hr hb
    obtain ⟨t, hexec, hlast, hkeeps⟩ := exec_of_wellFormed (decode_wellFormed hd).1
    exact ⟨i, t, hi, hsh, hk, hexec, (execute_of_cmd hd).trans hexec, by rw [hlast, hi], hkeeps⟩

end Sys2Proof.Machine
end

section
/-! A command reads no register but its operands (spec/30_encoding.md R64). -/

namespace Sys2Proof.Machine

theorem exec_p5ld {k : BitVec 10} {s : State} (hw : wellFormed s.sizes (.p5ld k) = true) :
    exec (.p5ld k) s =
      .next (performed 0x05 (limb 0 (pow5 k.toNat)) (limb 1 (pow5 k.toNat)) (BitVec.ofNat 64 (pow5Length k.toNat)) s) :=
  if_pos (of_decide_eq_true hw)

theorem exec_p5ild {k : BitVec 10} {s : State} (hw : wellFormed s.sizes (.p5ild k) = true) :
    exec (.p5ild k) s =
      .next (performed 0x06 (limb 0 (pow5Inv k.toNat)) (limb 1 (pow5Inv k.toNat))
        (BitVec.ofNat 64 (pow5Length k.toNat)) s) :=
  if_pos (of_decide_eq_true hw)

theorem exec_mulshp5 {sh : BitVec 8} {k : BitVec 10} {s : State} (hw : wellFormed s.sizes (.mulshp5 sh k) = true) :
    exec (.mulshp5 sh k) s = .next (performedQuotient 0x07 (mulShift s.opa.toNat (pow5 k.toNat) sh.toNat) s) :=
  if_pos (of_decide_eq_true hw)

theorem exec_mulshp5i {sh : BitVec 8} {k : BitVec 10} {s : State} (hw : wellFormed s.sizes (.mulshp5i sh k) = true) :
    exec (.mulshp5i sh k) s = .next (performedQuotient 0x08 (mulShift s.opa.toNat (pow5Inv k.toNat) sh.toNat) s) :=
  if_pos (of_decide_eq_true hw)

/-- Settles O32: the result words of each command are written with its operands alone. -/
theorem unreadRegistersDoNotMatter : Obligations.UnreadRegistersDoNotMatter := by
  unfold Obligations.UnreadRegistersDoNotMatter
  intro i s s' hsizes hw hregs
  have hw' : wellFormed s'.sizes i = true := hsizes ▸ hw
  cases i with
  | mul128 =>
    obtain ⟨ha, hb⟩ : s.opa = s'.opa ∧ s.opb = s'.opb := by simpa [operandsRead, mnemonicOf, readReg] using hregs
    exact ⟨_, _, rfl, rfl, by simp [ha, hb]⟩
  | shr128 sh =>
    obtain ⟨ha, hb⟩ : s.opa = s'.opa ∧ s.opb = s'.opb := by simpa [operandsRead, mnemonicOf, readReg] using hregs
    exact ⟨_, _, rfl, rfl, by simp [operandV, ha, hb]⟩
  | mod1e9 =>
    obtain ⟨ha, hb⟩ : s.opa = s'.opa ∧ s.opb = s'.opb := by simpa [operandsRead, mnemonicOf, readReg] using hregs
    exact ⟨_, _, rfl, rfl, by simp [operandV, ha, hb]⟩
  | mulsh sh =>
    obtain ⟨ha, hb, hc⟩ : s.opa = s'.opa ∧ s.opb = s'.opb ∧ s.opc = s'.opc := by
      simpa [operandsRead, mnemonicOf, readReg] using hregs
    exact ⟨_, _, rfl, rfl, by simp [factorF, ha, hb, hc]⟩
  | p5ld k => exact ⟨_, _, exec_p5ld hw, exec_p5ld hw', rfl, rfl, rfl, rfl⟩
  | p5ild k => exact ⟨_, _, exec_p5ild hw, exec_p5ild hw', rfl, rfl, rfl, rfl⟩
  | mulshp5 sh k =>
    have ha : s.opa = s'.opa := by simpa [operandsRead, mnemonicOf, readReg] using hregs
    exact ⟨_, _, exec_mulshp5 hw, exec_mulshp5 hw', by simp [ha]⟩
  | mulshp5i sh k =>
    have ha : s.opa = s'.opa := by simpa [operandsRead, mnemonicOf, readReg] using hregs
    exact ⟨_, _, exec_mulshp5i hw, exec_mulshp5i hw', by simp [ha]⟩

end Sys2Proof.Machine
end

section
/-! The assembler: the one access of a `cmd` statement, and the expansions of the pseudo-instructions
(spec/30_encoding.md R69, R70). -/

namespace Sys2Proof.Machine

/-! ### Values and fields -/

@[simp] theorem wordOf_toNat (v : Word) : wordOf v.toNat = some v := by
  rw [wordOf, if_pos v.isLt, BitVec.ofNat_toNat, BitVec.setWidth_eq]

theorem fieldOf_eq_none_iff {w : Nat} {used : Bool} {n : Option Nat} :
    fieldOf w used n = none ↔ ∃ x, n = some x ∧ (used = false ∨ 2 ^ w ≤ x) := by
  cases n with
  | none => simp [fieldOf]
  | some x => simp [fieldOf, imp_iff_not_or]

/-- An accepted field holds the given value, an omitted one 0, and an unused one is omitted (R69). -/
theorem fieldOf_eq_some {w : Nat} {used : Bool} {n : Option Nat} {b : BitVec w} (h : fieldOf w used n = some b) :
    b.toNat = n.getD 0 ∧ (used = false → b = 0) := by
  cases n with
  | none =>
    cases h
    simp
  | some x =>
    rw [fieldOf, Option.ite_none_right_eq_some] at h
    obtain ⟨⟨hused, hlt⟩, hb⟩ := h
    cases hb
    exact ⟨by simp [Nat.mod_eq_of_lt hlt], fun hunused => by simp [hused] at hunused⟩

/-- The field of a command, written out where its opcode uses it and omitted where it does not. -/
theorem fieldOf_written {w : Nat} {used : Bool} {b : BitVec w} (h : used = false → b = 0) :
    fieldOf w used (bif used then some b.toNat else none) = some b := by
  cases used with
  | false => rw [h rfl]; rfl
  | true => simp [fieldOf, b.isLt]

/-! ### The `cmd` statement (R69) -/

theorem assembleStmt_cmd_eq_some_iff {m : Mnemonic} {sh k : Option Nat} {a : Access} :
    assembleStmt (.cmd m sh k) = some a ↔
      ∃ bsh bk, fieldOf 8 (usesSH m) sh = some bsh ∧ fieldOf 10 (usesK m) k = some bk ∧
        a = cmdWrite (encodeFields (opcodeOf m) bsh bk) := by
  cases hsh : fieldOf 8 (usesSH m) sh <;> cases hk : fieldOf 10 (usesK m) k <;>
    simp [assembleStmt, hsh, hk, eq_comm]

theorem assembleStmt_cmd_eq_none_iff {m : Mnemonic} {sh k : Option Nat} :
    assembleStmt (.cmd m sh k) = none ↔ fieldOf 8 (usesSH m) sh = none ∨ fieldOf 10 (usesK m) k = none := by
  cases hsh : fieldOf 8 (usesSH m) sh <;> cases hk : fieldOf 10 (usesK m) k <;> simp [assembleStmt, hsh, hk]

/-- A mnemonic with its two fields, an unused one 0, has the word of its command (R63). -/
theorem encode_instrOf {m : Mnemonic} {sh : BitVec 8} {k : BitVec 10} (hsh : usesSH m = false → sh = 0)
    (hk : usesK m = false → k = 0) : encode (instrOf m sh k) = encodeFields (opcodeOf m) sh k := by
  rw [encode, mnemonicOf_instrOf, shOf_instrOf k hsh, kOf_instrOf sh hk]

/-- The word of a command is rejected for no cause but its index (R60). -/
theorem decode_encode_ne_rejected {c : TableSizes} {i : Instr} {cause : Cause} (h : cause ≠ .indexRange) :
    decode c (encode i) ≠ .rejected cause := by
  rw [decode_encode]
  split
  · simp
  · simpa using h.symm

/-- Settles O57: accepted fields make the word of a command, and a statement is refused for one of its two fields. -/
theorem cmdStatementEncodesItsFields : Obligations.CmdStatementEncodesItsFields := by
  unfold Obligations.CmdStatementEncodesItsFields
  intro m sh k
  refine ⟨fun a ha => ?accepted, ?refused⟩
  case accepted =>
    obtain ⟨bsh, bk, hsh, hk, rfl⟩ := assembleStmt_cmd_eq_some_iff.mp ha
    obtain ⟨hsh, hshUnused⟩ := fieldOf_eq_some hsh
    obtain ⟨hk, hkUnused⟩ := fieldOf_eq_some hk
    refine ⟨_, rfl, ?_, ?_, ?_, ?_, fun c => ?_⟩
    · rw [← opField_toNat, opField_encodeFields]
    · rw [← shField_toNat, shField_encodeFields, hsh]
    · rw [← kField_toNat, kField_encodeFields, hk]
    · rw [← rsvField_toNat, rsvField_encodeFields]
      rfl
    · rw [← encode_instrOf hshUnused hkUnused]
      exact ⟨decode_encode_ne_rejected nofun, decode_encode_ne_rejected nofun⟩
  case refused =>
    rw [assembleStmt_cmd_eq_none_iff, fieldOf_eq_none_iff, fieldOf_eq_none_iff]
    rfl

/-! ### The pseudo-instructions (R70) -/

theorem assembleStmt_wr {r : WinReg} (hr : wrAllowed r = true) (v : Word) :
    assembleStmt (.wr r v.toNat) = some ⟨.write, offsetOf r, .b8, v⟩ := by
  rw [assembleStmt, if_pos hr, wordOf_toNat]
  rfl

/-- The statement of a command, with the fields its opcode uses, is the CMD write of its word (R63, R69). -/
theorem assembleStmt_cmd (i : Instr) :
    assembleStmt (.cmd (mnemonicOf i) (bif usesSH (mnemonicOf i) then some (shOf i).toNat else none)
      (bif usesK (mnemonicOf i) then some (kOf i).toNat else none)) = some ⟨.write, 0x18, .b8, encode i⟩ := by
  obtain ⟨-, hshField, hkField, -, hreserved⟩ := encodedFields i
  obtain ⟨-, hsh, hk⟩ := reservedSet_eq_false_iff.mp hreserved
  rw [hshField] at hsh
  rw [hkField] at hk
  exact assembleStmt_cmd_eq_some_iff.mpr ⟨_, _, fieldOf_written hsh, fieldOf_written hk, rfl⟩

theorem assembleStmts_cons {s : Stmt} {ss : List Stmt} {a : Access} {as : List Access} (h : assembleStmt s = some a)
    (hs : assembleStmts ss = some as) : assembleStmts (s :: ss) = some (a :: as) := by
  simp only [assembleStmts, h, hs]

/-- A list that ends in one command statement. -/
theorem assembleStmts_cmd (i : Instr) :
    assembleStmts [.cmd (mnemonicOf i) (bif usesSH (mnemonicOf i) then some (shOf i).toNat else none)
      (bif usesK (mnemonicOf i) then some (kOf i).toNat else none)] = some [⟨.write, 0x18, .b8, encode i⟩] :=
  assembleStmts_cons (assembleStmt_cmd i) rfl

theorem assembleStmts_wr_cons {r : WinReg} (hr : wrAllowed r = true) (v : Word) {ss : List Stmt} {as : List Access}
    (hs : assembleStmts ss = some as) :
    assembleStmts (.wr r v.toNat :: ss) = some (⟨.write, offsetOf r, .b8, v⟩ :: as) :=
  assembleStmts_cons (assembleStmt_wr hr v) hs

/-- Settles O58: the expansions' register writes one after another, then the command's own statement. -/
theorem pseudoInstructionsExpand : Obligations.PseudoInstructionsExpand := by
  unfold Obligations.PseudoInstructionsExpand
  intro a b c sh k
  refine ⟨?mul128, ?shr128, ?mod1e9, ?mulsh, ?p5ld, ?p5ild, ?mulshp5, ?mulshp5i, ?rdres, ?clrerr⟩
  case mul128 =>
    exact assembleStmts_wr_cons (r := .opa) rfl a (assembleStmts_wr_cons (r := .opb) rfl b (assembleStmts_cmd .mul128))
  case shr128 =>
    exact assembleStmts_wr_cons (r := .opa) rfl b
      (assembleStmts_wr_cons (r := .opb) rfl a (assembleStmts_cmd (.shr128 sh)))
  case mod1e9 =>
    exact assembleStmts_wr_cons (r := .opa) rfl b (assembleStmts_wr_cons (r := .opb) rfl a (assembleStmts_cmd .mod1e9))
  case mulsh =>
    exact assembleStmts_wr_cons (r := .opa) rfl a (assembleStmts_wr_cons (r := .opb) rfl c
      (assembleStmts_wr_cons (r := .opc) rfl b (assembleStmts_cmd (.mulsh sh))))
  case p5ld => exact assembleStmts_cmd (.p5ld k)
  case p5ild => exact assembleStmts_cmd (.p5ild k)
  case mulshp5 => exact assembleStmts_wr_cons (r := .opa) rfl a (assembleStmts_cmd (.mulshp5 sh k))
  case mulshp5i => exact assembleStmts_wr_cons (r := .opa) rfl a (assembleStmts_cmd (.mulshp5i sh k))
  case rdres => rfl
  case clrerr => exact assembleStmts_wr_cons (r := .status) rfl 1 (ss := []) rfl

end Sys2Proof.Machine
end

section
/-! The formulas and bounds of the table entries (spec/40_pow5.md R80, R81). -/

namespace Sys2Proof.Machine

/-! ### The forward entry (R80) -/

theorem pow5_of_length_le {k : Nat} (h : pow5Length k ≤ 125) : pow5 k = 5 ^ k * 2 ^ (125 - pow5Length k) := if_pos h

theorem pow5_of_lt_length {k : Nat} (h : 125 < pow5Length k) : pow5 k = 5 ^ k / 2 ^ (pow5Length k - 125) :=
  if_neg (not_le.mpr h)

/-- Both forms of R80 are the one floor `5^k * 2^125 / 2^L(k)`: the smaller power of two cancels. -/
theorem pow5_eq_floor (k : Nat) : pow5 k = 5 ^ k * 2 ^ 125 / 2 ^ pow5Length k := by
  rcases le_or_gt (pow5Length k) 125 with hexact | htruncated
  · have hsplit : 2 ^ 125 = 2 ^ (125 - pow5Length k) * 2 ^ pow5Length k := by rw [← pow_add, Nat.sub_add_cancel hexact]
    rw [pow5_of_length_le hexact, hsplit, ← mul_assoc, Nat.mul_div_cancel _ (by positivity)]
  · have hsplit : 2 ^ pow5Length k = 2 ^ (pow5Length k - 125) * 2 ^ 125 := by
      rw [← pow_add, Nat.sub_add_cancel htruncated.le]
    rw [pow5_of_lt_length htruncated, hsplit, Nat.mul_div_mul_right _ _ (by positivity)]

/-- 53 is the last index of the exact form. -/
theorem pow5Length_le_125_iff {k : Nat} : pow5Length k ≤ 125 ↔ k ≤ 53 := by
  rw [pow5Length_le_iff]
  constructor
  · intro hlt
    have hexp : 5 ^ k < 5 ^ 54 := hlt.trans (by norm_num)
    exact Nat.le_of_lt_succ ((Nat.pow_lt_pow_iff_right (by norm_num)).mp hexp)
  · intro hk
    calc 5 ^ k ≤ 5 ^ 53 := Nat.pow_le_pow_right (by norm_num) hk
      _ < 2 ^ 125 := by norm_num

/-- Settles O39: both forms are one floor, whose two bounds are the scaling bounds. -/
theorem forwardEntryRule : Obligations.ForwardEntryRule := by
  unfold Obligations.ForwardEntryRule
  intro k
  obtain ⟨hlow, hhigh⟩ := pow5_bounds k
  refine ⟨pow5_eq_floor k, hlow, hhigh, pow5_of_length_le, pow5_of_lt_length, ?below, ?above, pow5Length_le_125_iff⟩
  case below =>
    rw [pow5_eq_floor]
    exact Nat.div_mul_le_self _ _
  case above =>
    rw [pow5_eq_floor, mul_comm _ (2 ^ pow5Length k)]
    exact Nat.lt_mul_div_succ _ (by positivity)

/-! ### The reciprocal entry (R81) -/

/-- Settles O41: the entry is one more than a floor, so above the quotient and at most one above it. -/
theorem reciprocalEntryRule : Obligations.ReciprocalEntryRule := by
  unfold Obligations.ReciprocalEntryRule
  intro k _
  refine ⟨rfl, ?above, ?below, ?zero, (pow5Inv_bounds k).2.trans_lt (by norm_num)⟩
  case above =>
    rw [mul_comm]
    exact Nat.lt_mul_div_succ _ (by positivity)
  case below =>
    rw [pow5Inv, add_one_mul]
    exact Nat.add_le_add_right (Nat.div_mul_le_self _ _) _
  case zero =>
    rintro rfl
    decide

/-- A power of two at or below `5^k` has its exponent over `k` below any upper approximation `p / q` of the binary logarithm
of 5. -/
theorem exponent_lt_of_two_pow_le {p q k m : Nat} (habove : 5 ^ q < 2 ^ p) (hk : 1 ≤ k) (h : 2 ^ m ≤ 5 ^ k) :
    m * q + 1 ≤ p * k := by
  have hpow : 2 ^ (m * q) < 2 ^ (p * k) := by
    calc 2 ^ (m * q) ≤ (5 ^ k) ^ q := by rw [pow_mul]; exact Nat.pow_le_pow_left h q
      _ = (5 ^ q) ^ k := pow_right_comm 5 k q
      _ < (2 ^ p) ^ k := Nat.pow_lt_pow_left habove (by omega)
      _ = 2 ^ (p * k) := (pow_mul 2 p k).symm
  exact (Nat.pow_lt_pow_iff_right one_lt_two).mp hpow

/-- The unequal fractions `m / k` and `p / q` differ by at least `1 / (k * q)`, so the `q`-th powers of `2^m` and `5^k` are a
factor 2 apart, but for the `k`-th power of the approximation's error `r`. -/
theorem two_pow_gap {p q k m : Nat} {r : ℚ} (habove : 5 ^ q < 2 ^ p) (hr : 0 ≤ r) (hclose : r * 2 ^ p ≤ 5 ^ q) (hk : 1 ≤ k)
    (h : 2 ^ m ≤ 5 ^ k) : r ^ k * (2 * (2 ^ m) ^ q) ≤ (5 ^ k) ^ q := by
  have hfactor : (2 : ℚ) * (2 ^ m) ^ q ≤ (2 ^ p) ^ k := by
    rw [← pow_mul, ← pow_mul, ← pow_succ']
    exact pow_le_pow_right₀ one_le_two (exponent_lt_of_two_pow_le habove hk h)
  calc r ^ k * (2 * (2 ^ m) ^ q) ≤ r ^ k * (2 ^ p) ^ k := mul_le_mul_of_nonneg_left hfactor (by positivity)
    _ = (r * 2 ^ p) ^ k := (mul_pow _ _ _).symm
    _ ≤ (5 ^ q) ^ k := pow_le_pow_left₀ (by positivity) hclose k
    _ = (5 ^ k) ^ q := pow_right_comm 5 q k

/-- `1493 / 643` is a close upper approximation of the binary logarithm of 5. -/
theorem five_pow_643_bounds : 5 ^ 643 < 2 ^ 1493 ∧ 4095 * 2 ^ 1493 ≤ 5 ^ 643 * 4096 := by decide +kernel

/-- No `5^k` with `1 <= k < 1024` is close above a power of two: of the factor 2 that the approximation `1493 / 643` leaves,
its error takes less than 4/3. Bernoulli's inequality bounds both powers of a ratio near 1. -/
theorem two_pow_far_below_pow5 {k m : Nat} (hk : 1 ≤ k) (hk' : k < 1024) (h : 2 ^ m ≤ 5 ^ k) :
    2 ^ m * 2048 ≤ 2047 * 5 ^ k := by
  have hclose : (4095 / 4096 : ℚ) * 2 ^ 1493 ≤ 5 ^ 643 := by
    rw [div_mul_eq_mul_div, div_le_iff₀ (by norm_num)]
    exact_mod_cast five_pow_643_bounds.2
  have herror : (3 / 4 : ℚ) ≤ (4095 / 4096) ^ k := by
    have hk'' : (k : ℚ) ≤ 1024 := by exact_mod_cast hk'.le
    calc (3 / 4 : ℚ) ≤ 1 + k * (4095 / 4096 - 1) := by linarith
      _ ≤ (4095 / 4096) ^ k := one_add_mul_sub_le_pow (by norm_num) k
  have hratio : (2 / 3 : ℚ) ≤ (2047 / 2048) ^ 643 := by
    calc (2 / 3 : ℚ) ≤ 1 + (643 : Nat) * (2047 / 2048 - 1) := by norm_num
      _ ≤ (2047 / 2048) ^ 643 := one_add_mul_sub_le_pow (by norm_num) 643
  have hgap := two_pow_gap five_pow_643_bounds.1 (by norm_num) hclose hk h
  have hpowers : ((2 : ℚ) ^ m) ^ 643 ≤ (2047 / 2048 * 5 ^ k) ^ 643 := by
    have hthree : (3 / 4 : ℚ) * (2 * (2 ^ m) ^ 643) ≤ (5 ^ k) ^ 643 :=
      (mul_le_mul_of_nonneg_right herror (by positivity)).trans hgap
    calc ((2 : ℚ) ^ m) ^ 643 ≤ 2 / 3 * (5 ^ k) ^ 643 := by linarith
      _ ≤ (2047 / 2048) ^ 643 * (5 ^ k) ^ 643 := mul_le_mul_of_nonneg_right hratio (by positivity)
      _ = (2047 / 2048 * 5 ^ k) ^ 643 := (mul_pow _ _ _).symm
  have hroot : (2 : ℚ) ^ m ≤ 2047 / 2048 * 5 ^ k := le_of_pow_le_pow_left₀ (by norm_num) (by positivity) hpowers
  have hrat : (2 ^ m * 2048 : ℚ) ≤ 2047 * 5 ^ k := by linarith
  exact_mod_cast hrat

/-- From index 1 on, a reciprocal entry keeps below `2^125`. -/
theorem pow5Inv_lt_two_pow {k : Nat} (hk : 1 ≤ k) (hk' : k < 1024) : pow5Inv k < 2 ^ 125 := by
  have hfar := two_pow_far_below_pow5 hk hk' (two_pow_length_le_pow5 k)
  have hfloor : 2 ^ (pow5Length k - 1 + 125) / 5 ^ k < 2 ^ 125 - 1 := by
    have hpos : 0 < 5 ^ k := by positivity
    rw [Nat.div_lt_iff_lt_mul hpos, pow_add]
    omega
  rw [pow5Inv, p5BitCount]
  omega

/-- Index 0 alone has an entry of 126 bits. -/
theorem two_pow_le_pow5Inv_iff {k : Nat} (hk : k < 1024) : 2 ^ 125 ≤ pow5Inv k ↔ k = 0 := by
  constructor
  · intro hle
    by_contra hne
    exact absurd hle (not_le.mpr (pow5Inv_lt_two_pow (Nat.one_le_iff_ne_zero.mpr hne) hk))
  · rintro rfl
    decide

end Sys2Proof.Machine
end

section
/-! The lookup commands P5LD and P5ILD (spec/40_pow5.md R82, R83, R86). -/

namespace Sys2Proof.Machine

/-! ### RES2 (R86) -/

/-- Settles O43: both lookups write the word of `L(K)`, which has room for it. -/
theorem lengthFitsRes2 : Obligations.LengthFitsRes2 := by
  unfold Obligations.LengthFitsRes2
  intro s k
  refine ⟨fun hk => ?p5ld, fun hk => ?p5ild⟩
  case p5ld => exact ⟨_, exec_p5ld (decide_eq_true hk), pow5Length_word_toNat k⟩
  case p5ild => exact ⟨_, exec_p5ild (decide_eq_true hk), pow5Length_word_toNat k⟩

/-! ### Decoding a lookup (R60, R64) -/

theorem mnemonicOfOpcode_opField_of_opBits {v : Word} {m : Mnemonic} (h : opBits v = (opcodeOf m).toNat) :
    mnemonicOfOpcode (opField v) = some m := by
  rw [mnemonicOfOpcode_eq_some_iff, BitVec.toNat_eq, opField_toNat, h]

/-- A word that passes every check decodes to its row's command, with the word's own fields (R60). -/
theorem decode_of_checks {c : TableSizes} {v : Word} {m : Mnemonic} (hm : mnemonicOfOpcode (opField v) = some m)
    (hr : ¬ ReservedNonzero v) (hb : ¬ IndexBeyond c v) : decode c v = .cmd (instrOf m (shField v) (kField v)) := by
  rw [← reservedSet_iff hm] at hr
  rw [← beyondTable_iff c hm] at hb
  simp only [decode, hm, if_neg hr, if_neg hb]

/-- The checks on the word of a command that reads a table of `n` entries and no SH (R66). -/
theorem decode_lookup {c : TableSizes} {v : Word} {m : Mnemonic} {n : Nat} (hop : opBits v = (opcodeOf m).toNat)
    (hr : ReservedNonzero v ↔ shBits v ≠ 0 ∨ rsvBits v ≠ 0) (hb : IndexBeyond c v ↔ n ≤ kBits v) :
    (shBits v ≠ 0 ∨ rsvBits v ≠ 0 → decode c v = .rejected .reservedField) ∧
    (shBits v = 0 → rsvBits v = 0 → n ≤ kBits v → decode c v = .rejected .indexRange) ∧
    (shBits v = 0 → rsvBits v = 0 → kBits v < n → decode c v = .cmd (instrOf m (shField v) (kField v))) := by
  have hm := mnemonicOfOpcode_opField_of_opBits hop
  have hlegal := not_opIllegal_of_mnemonic hm
  refine ⟨fun hset => ?reserved, fun hsh hrsv hk => ?index, fun hsh hrsv hk => ?command⟩
  case reserved => exact (reservedNonzero_iff_decode c v).mp ⟨hlegal, hr.mpr hset⟩
  case index => exact decode_indexRange hlegal (by simp [hr, hsh, hrsv]) (hb.mpr hk)
  case command => exact decode_of_checks hm (by simp [hr, hsh, hrsv]) (by simpa [hb] using hk)

/-! ### The words a lookup writes (R82, R83) -/

/-- The words of the entries that R82 gives. -/
theorem p5ld_words :
    (limb 1 (pow5 0) = 0x1000000000000000 ∧ limb 0 (pow5 0) = 0 ∧ BitVec.ofNat 64 (pow5Length 0) = 1) ∧
    (limb 1 (pow5 1) = 0x1400000000000000 ∧ limb 0 (pow5 1) = 0 ∧ BitVec.ofNat 64 (pow5Length 1) = 3) := by
  decide

/-- The words of the entries that R83 gives. -/
theorem p5ild_words :
    (limb 1 (pow5Inv 0) = 0x2000000000000000 ∧ limb 0 (pow5Inv 0) = 1 ∧ BitVec.ofNat 64 (pow5Length 0) = 1) ∧
    (limb 1 (pow5Inv 1) = 0x1999999999999999 ∧ limb 0 (pow5Inv 1) = 0x999999999999999A ∧
      BitVec.ofNat 64 (pow5Length 1) = 3) := by
  decide

/-- The top bits of the high word of a value below `2^126`. -/
theorem limb_one_top_bits {n : Nat} (h : n < 2 ^ 126) :
    (limb 1 n).extractLsb' 62 2 = 0 ∧ ((limb 1 n).getLsbD 61 = true ↔ 2 ^ 125 ≤ n) := by
  constructor
  · apply BitVec.eq_of_toNat_eq
    simp only [BitVec.extractLsb'_toNat, limb_toNat, Nat.shiftRight_eq_div_pow, BitVec.ofNat_eq_ofNat, BitVec.toNat_ofNat]
    omega
  · rw [← BitVec.testBit_toNat, Nat.testBit_eq_decide_div_mod_eq, decide_eq_true_eq, limb_toNat]
    omega

/-- Settles O50: the forward entry fits two words and `L(K)` one; a word passes the checks of R60 with the command's own K. -/
theorem p5ldRule : Obligations.P5ldRule := by
  unfold Obligations.P5ldRule
  refine ⟨fun s k hk => ?performed, fun c v hop => ?word⟩
  case performed =>
    have hfits : pow5 k.toNat < 2 ^ 128 := (pow5_bounds k.toNat).2.trans (by norm_num)
    refine ⟨_, exec_p5ld (decide_eq_true hk), joinWords_limbs hfits, pow5Length_word_toNat k, rfl,
      keepsAllButResult_performed _ _ _ _ s, ?_, ?_⟩
    · rintro rfl
      exact p5ld_words.1
    · rintro rfl
      exact p5ld_words.2
  case word =>
    obtain ⟨hreserved, hindex, hcommand⟩ := decode_lookup (c := c) (m := .p5ld) (n := c.p5Count) hop
      (by simp [ReservedNonzero, hop, or_comm]) (by simp [IndexBeyond, hop])
    exact ⟨hreserved, hindex, fun hsh hrsv hk => ⟨kField v, kField_toNat v, hcommand hsh hrsv hk⟩⟩

/-- Settles O52: as for P5LD, with the reciprocal entry, whose bit 125 is set at index 0 alone. -/
theorem p5ildRule : Obligations.P5ildRule := by
  unfold Obligations.P5ildRule
  refine ⟨fun s k hk => ?performed, fun c v hop => ?word⟩
  case performed =>
    have hfits : pow5Inv k.toNat < 2 ^ 126 := (pow5Inv_bounds k.toNat).2.trans_lt (by norm_num)
    obtain ⟨htop, hbit⟩ := limb_one_top_bits hfits
    have hzero : k.toNat = 0 ↔ k = 0 := BitVec.toNat_inj (y := 0)
    rw [two_pow_le_pow5Inv_iff k.isLt, hzero] at hbit
    refine ⟨_, exec_p5ild (decide_eq_true hk), joinWords_limbs (hfits.trans (by norm_num)), pow5Length_word_toNat k, rfl,
      keepsAllButResult_performed _ _ _ _ s, htop, hbit, ?_, ?_⟩
    · rintro rfl
      exact p5ild_words.1
    · rintro rfl
      exact p5ild_words.2
  case word =>
    obtain ⟨hreserved, hindex, hcommand⟩ := decode_lookup (c := c) (m := .p5ild) (n := c.p5iCount) hop
      (by simp [ReservedNonzero, hop, or_comm]) (by simp [IndexBeyond, hop])
    exact ⟨hreserved, hindex, fun hsh hrsv hk => ⟨kField v, kField_toNat v, hcommand hsh hrsv hk⟩⟩

end Sys2Proof.Machine
end

section
/-! The wide-arithmetic commands MUL128, SHR128 and MOD1E9 (spec/41_widearith.md R90 to R92). -/

namespace Sys2Proof.Machine

/-! ### Decoding a command that reads no table (R60, R64) -/

/-- A word of the first four rows has no index to check: its reserved fields alone decide. -/
theorem decode_tableless {c : TableSizes} {v : Word} {m : Mnemonic} (hop : opBits v = (opcodeOf m).toNat)
    (hm : (opcodeOf m).toNat ≤ 4) :
    (ReservedNonzero v → decode c v = .rejected .reservedField) ∧
    (¬ ReservedNonzero v → decode c v = .cmd (instrOf m (shField v) (kField v))) := by
  have hsome := mnemonicOfOpcode_opField_of_opBits hop
  refine ⟨fun hr => ?reserved, fun hr => ?command⟩
  case reserved => exact (reservedNonzero_iff_decode c v).mp ⟨not_opIllegal_of_mnemonic hsome, hr⟩
  case command =>
    have hb : ¬ IndexBeyond c v := by
      simp only [IndexBeyond, List.mem_cons, List.not_mem_nil, or_false]
      omega
    exact decode_of_checks hsome hr hb

/-- The checks on the word of a command with neither SH nor K: MUL128 and MOD1E9 (R66). -/
theorem decode_fieldless {c : TableSizes} {v : Word} {m : Mnemonic} (hop : opBits v = (opcodeOf m).toNat)
    (hm : (opcodeOf m).toNat ∈ [1, 3]) :
    (shBits v ≠ 0 ∨ kBits v ≠ 0 ∨ rsvBits v ≠ 0 → decode c v = .rejected .reservedField) ∧
    (shBits v = 0 → kBits v = 0 → rsvBits v = 0 → decode c v = .cmd (instrOf m (shField v) (kField v))) := by
  simp only [List.mem_cons, List.not_mem_nil, or_false] at hm
  have hr : ReservedNonzero v ↔ rsvBits v ≠ 0 ∨ shBits v ≠ 0 ∨ kBits v ≠ 0 := by
    rcases hm with hm | hm <;> simp [ReservedNonzero, hop, hm]
  obtain ⟨hreserved, hcommand⟩ := decode_tableless (c := c) hop (by omega)
  exact ⟨fun hset => hreserved (hr.mpr (by tauto)), fun hsh hk hrsv => hcommand (by simp [hr, hsh, hk, hrsv])⟩

/-- The checks on the word of a command with SH but no K: SHR128 and MULSH (R66). -/
theorem decode_shift {c : TableSizes} {v : Word} {m : Mnemonic} (hop : opBits v = (opcodeOf m).toNat)
    (hm : (opcodeOf m).toNat ∈ [2, 4]) :
    (kBits v ≠ 0 ∨ rsvBits v ≠ 0 → decode c v = .rejected .reservedField) ∧
    (kBits v = 0 → rsvBits v = 0 → decode c v = .cmd (instrOf m (shField v) (kField v))) := by
  simp only [List.mem_cons, List.not_mem_nil, or_false] at hm
  have hr : ReservedNonzero v ↔ rsvBits v ≠ 0 ∨ kBits v ≠ 0 := by
    rcases hm with hm | hm <;> simp [ReservedNonzero, hop, hm]
  obtain ⟨hreserved, hcommand⟩ := decode_tableless (c := c) hop (by omega)
  exact ⟨fun hset => hreserved (hr.mpr hset.symm), fun hk hrsv => hcommand (by simp [hr, hk, hrsv])⟩

/-! ### The words of a wide value -/

@[simp] theorem limb_of_zero (i : Nat) : limb i 0 = 0 := by
  simp [limb]

@[simp] theorem limb_zero_toNat_word (w : Word) : limb 0 w.toNat = w := by
  simp [limb]

theorem limb_one_of_lt {n : Nat} (h : n < 2 ^ 64) : limb 1 n = 0 := by
  rw [limb, mul_one, Nat.div_eq_of_lt h]
  rfl

/-- The high word alone is left of a wide value shifted by a word or more (R91). -/
theorem joinWords_div_two_pow (hi lo : Word) (n : Nat) : joinWords hi lo / 2 ^ (64 + n) = hi.toNat / 2 ^ n := by
  have hword : joinWords hi lo / 2 ^ 64 = hi.toNat := by
    have hlo := lo.isLt
    unfold joinWords
    omega
  rw [pow_add, ← Nat.div_div_eq_div_mul, hword]

theorem limbs_joinWords (hi lo : Word) : limb 1 (joinWords hi lo) = hi ∧ limb 0 (joinWords hi lo) = lo := by
  have hlo := lo.isLt
  have hhi := hi.isLt
  rw [BitVec.toNat_eq, BitVec.toNat_eq, limb_toNat, limb_toNat, joinWords]
  omega

/-- A word shifted right by 63 is its top bit (R91, SH = 127). -/
theorem word_div_two_pow_63 (w : Word) : w.toNat / 2 ^ 63 = if w.getLsbD 63 then 1 else 0 := by
  have hw := w.isLt
  rw [← BitVec.testBit_toNat, Nat.testBit_eq_decide_div_mod_eq]
  simp only [decide_eq_true_eq]
  split <;> omega

/-! ### MUL128 (R90) -/

theorem exec_mul128 (s : State) :
    exec .mul128 s =
      .next (performed 0x01 (limb 0 (s.opa.toNat * s.opb.toNat)) (limb 1 (s.opa.toNat * s.opb.toNat)) 0 s) := rfl

theorem word_mul_lt (a b : Word) : a.toNat * b.toNat < 2 ^ 128 := by
  calc a.toNat * b.toNat < 2 ^ 64 * 2 ^ 64 := Nat.mul_lt_mul'' a.isLt b.isLt
    _ = 2 ^ 128 := (pow_add 2 64 64).symm

/-- The words of the products that R90 gives. -/
theorem mul128_words :
    (limb 1 ((0xFFFFFFFFFFFFFFFF : Word).toNat * (0xFFFFFFFFFFFFFFFF : Word).toNat) = 0xFFFFFFFFFFFFFFFE ∧
      limb 0 ((0xFFFFFFFFFFFFFFFF : Word).toNat * (0xFFFFFFFFFFFFFFFF : Word).toNat) = 1) ∧
    (limb 1 ((0x100000000 : Word).toNat * (0x100000000 : Word).toNat) = 1 ∧
      limb 0 ((0x100000000 : Word).toNat * (0x100000000 : Word).toNat) = 0) ∧
    (limb 1 ((0x123456789ABCDEF0 : Word).toNat * (0x0FEDCBA987654321 : Word).toNat) = 0x0121FA00AD77D742 ∧
      limb 0 ((0x123456789ABCDEF0 : Word).toNat * (0x0FEDCBA987654321 : Word).toNat) = 0x2236D88FE5618CF0) := by
  decide

/-- Settles O45: the product of two words fits two words, so its words give it back. -/
theorem mul128Rule : Obligations.Mul128Rule := by
  unfold Obligations.Mul128Rule
  refine ⟨fun s => ⟨_, exec_mul128 s, joinWords_limbs (word_mul_lt s.opa s.opb), rfl, rfl,
    keepsAllButResult_performed _ _ _ _ s, fun hzero => ?zero, fun ha hb => ?largest, fun ha hb => ?power,
    fun ha hb => ?sample⟩, fun c v hop => decode_fieldless (m := .mul128) hop (by decide)⟩
  case zero =>
    have hproduct : s.opa.toNat * s.opb.toNat = 0 := by
      rcases hzero with h | h <;> simp [h]
    simp only [performed_res0, performed_res1, hproduct, limb_of_zero, and_self]
  all_goals simp only [performed_res0, performed_res1, ha, hb]
  case largest => exact mul128_words.1
  case power => exact mul128_words.2.1
  case sample => exact mul128_words.2.2

/-! ### SHR128 (R91) -/

theorem exec_shr128 (sh : BitVec 8) (s : State) :
    exec (.shr128 sh) s =
      .next (performed 0x02 (limb 0 (operandV s / 2 ^ sh.toNat)) (limb 1 (operandV s / 2 ^ sh.toNat)) 0 s) := rfl

/-- The words of the shifted value that R91 gives. -/
theorem shr128_words :
    limb 1 (joinWords 0x0123456789ABCDEF 0xFEDCBA9876543210 / 2 ^ 4) = 0x00123456789ABCDE ∧
    limb 0 (joinWords 0x0123456789ABCDEF 0xFEDCBA9876543210 / 2 ^ 4) = 0xFFEDCBA987654321 := by
  decide

/-- Settles O46: the quotient fits two words; from SH = 64 on it is the high word shifted by the rest of the distance. -/
theorem shr128Rule : Obligations.Shr128Rule := by
  unfold Obligations.Shr128Rule
  refine ⟨fun s sh => ?performed, fun c v hop => ?word⟩
  case performed =>
    have hfits : operandV s / 2 ^ sh.toNat < 2 ^ 128 := (Nat.div_le_self _ _).trans_lt (joinWords_lt _ _)
    refine ⟨_, exec_shr128 sh s, joinWords_limbs hfits, rfl, rfl, keepsAllButResult_performed _ _ _ _ s,
      fun hsh => ?zero, fun hsh => ?oneWord, fun hsh => ?topBit, fun hsh => ?beyond, fun hb ha hsh => ?sample⟩
    all_goals simp only [performed_res0, performed_res1, operandV]
    case zero =>
      rw [hsh, pow_zero, Nat.div_one]
      exact limbs_joinWords s.opb s.opa
    case oneWord =>
      rw [hsh, joinWords_div_two_pow s.opb s.opa 0, pow_zero, Nat.div_one]
      exact ⟨limb_one_of_lt s.opb.isLt, limb_zero_toNat_word s.opb⟩
    case topBit =>
      rw [hsh, joinWords_div_two_pow s.opb s.opa 63, word_div_two_pow_63]
      cases s.opb.getLsbD 63 <;> decide
    case beyond =>
      have hzero : joinWords s.opb s.opa / 2 ^ sh.toNat = 0 :=
        Nat.div_eq_of_lt ((joinWords_lt _ _).trans_le (Nat.pow_le_pow_right (by norm_num) hsh))
      rw [hzero]
      exact ⟨limb_of_zero 0, limb_of_zero 1⟩
    case sample =>
      rw [hsh, hb, ha]
      exact shr128_words
  case word =>
    obtain ⟨hreserved, hcommand⟩ := decode_shift (c := c) (m := .shr128) hop (by decide)
    exact ⟨hreserved, fun hk hrsv => ⟨shField v, shField_toNat v, hcommand hk hrsv⟩⟩

/-! ### MOD1E9 (R92) -/

theorem exec_mod1e9 (s : State) :
    exec .mod1e9 s = .next (performed 0x03 (BitVec.ofNat 64 (operandV s % 1000000000)) 0 0 s) := rfl

/-- A remainder by `10^9` is below `2^30`, so one word holds it. -/
theorem mod1e9_word_toNat (n : Nat) :
    (BitVec.ofNat 64 (n % 1000000000)).toNat = n % 10 ^ 9 ∧ (BitVec.ofNat 64 (n % 1000000000)).toNat < 2 ^ 30 := by
  rw [BitVec.toNat_ofNat]
  omega

/-- Settles O48: the word of the remainder is the remainder; the corner cases are remainders of given values. -/
theorem mod1e9Rule : Obligations.Mod1e9Rule := by
  unfold Obligations.Mod1e9Rule
  refine ⟨fun s => ?performed, fun c v hop => decode_fieldless (m := .mod1e9) hop (by decide)⟩
  obtain ⟨hvalue, hbound⟩ := mod1e9_word_toNat (operandV s)
  refine ⟨_, exec_mod1e9 s, hvalue, hbound, rfl, rfl, rfl, keepsAllButResult_performed _ _ _ _ s, ?_, ?_, ?_, ?_, ?_, ?_⟩
  all_goals
    intro hb ha
    rw [performed_res0, operandV, hb, ha]
    decide

end Sys2Proof.Machine
end

section
/-! The multiply-shift commands MULSH, MULSHP5 and MULSHP5I (spec/42_mulshift.md R100 to R103). -/

namespace Sys2Proof.Machine

/-! ### Decoding a fused command (R60, R64) -/

/-- The checks on the word of a command that reads SH and a table of `n` entries: MULSHP5 and MULSHP5I (R66). -/
theorem decode_fused {c : TableSizes} {v : Word} {m : Mnemonic} {n : Nat} (hop : opBits v = (opcodeOf m).toNat)
    (hr : ReservedNonzero v ↔ rsvBits v ≠ 0) (hb : IndexBeyond c v ↔ n ≤ kBits v) :
    (rsvBits v ≠ 0 → decode c v = .rejected .reservedField) ∧
    (rsvBits v = 0 → n ≤ kBits v → decode c v = .rejected .indexRange) ∧
    (rsvBits v = 0 → kBits v < n → decode c v = .cmd (instrOf m (shField v) (kField v))) := by
  have hm := mnemonicOfOpcode_opField_of_opBits hop
  have hlegal := not_opIllegal_of_mnemonic hm
  have hclear : rsvBits v = 0 → ¬ ReservedNonzero v := fun hrsv hset => hr.mp hset hrsv
  refine ⟨fun hset => ?reserved, fun hrsv hk => ?index, fun hrsv hk => ?command⟩
  case reserved => exact (reservedNonzero_iff_decode c v).mp ⟨hlegal, hr.mpr hset⟩
  case index => exact decode_indexRange hlegal (hclear hrsv) (hb.mpr hk)
  case command => exact decode_of_checks hm (hclear hrsv) (fun hbeyond => (hb.mp hbeyond).not_gt hk)

/-! ### The quotient and its words (R103) -/

@[simp] theorem mulShift_zero_left (f sh : Nat) : mulShift 0 f sh = 0 := by
  simp [mulShift]

@[simp] theorem mulShift_zero_factor (m sh : Nat) : mulShift m 0 sh = 0 := by
  simp [mulShift]

@[simp] theorem mulShift_zero_shift (m f : Nat) : mulShift m f 0 = m * f := by
  simp [mulShift]

/-- A word times an `n`-bit factor has `64 + n` bits, and a shift takes off its own number of them. -/
theorem mulShift_lt (m : Word) {f n : Nat} (hf : f < 2 ^ n) (sh : Nat) :
    mulShift m.toNat f sh < 2 ^ (64 + n - sh) := by
  apply Nat.div_lt_of_lt_mul
  calc m.toNat * f < 2 ^ 64 * 2 ^ n := Nat.mul_lt_mul'' m.isLt hf
    _ = 2 ^ (64 + n) := (pow_add 2 64 n).symm
    _ ≤ 2 ^ (sh + (64 + n - sh)) := Nat.pow_le_pow_right two_pos (by omega)
    _ = 2 ^ sh * 2 ^ (64 + n - sh) := pow_add 2 sh _

theorem mulShift_eq_zero (m : Word) {f n sh : Nat} (hf : f < 2 ^ n) (hsh : 64 + n ≤ sh) : mulShift m.toNat f sh = 0 := by
  have hlt := mulShift_lt m hf sh
  rwa [Nat.sub_eq_zero_of_le hsh, pow_zero, Nat.lt_one_iff] at hlt

/-- With a factor of two words nothing of the quotient is lost in the result registers. -/
theorem resultValue_mulShift (m : Word) {f : Nat} (hf : f < 2 ^ 128) (op : Byte) (sh : Nat) (s : State) :
    resultValue (performedQuotient op (mulShift m.toNat f sh) s) = mulShift m.toNat f sh :=
  resultValue_performedQuotient ((mulShift_lt m hf sh).trans_le (Nat.pow_le_pow_right two_pos (Nat.sub_le _ _))) op s

theorem limb_eq_zero_of_lt {i n : Nat} (h : n < 2 ^ (64 * i)) : limb i n = 0 := by
  rw [limb, Nat.div_eq_of_lt h]
  rfl

theorem keepsAllButResult_performedQuotient (op : Byte) (q : Nat) (s : State) :
    KeepsAllButResult s (performedQuotient op q s) := keepsAllButResult_performed _ _ _ _ s

/-! ### MULSH (R100) -/

theorem exec_mulsh (sh : BitVec 8) (s : State) :
    exec (.mulsh sh) s = .next (performedQuotient 0x04 (mulShift s.opa.toNat (factorF s) sh.toNat) s) := rfl

/-- The words of the largest product and of the example that R100 gives. -/
theorem mulsh_words :
    (limb 2 (mulShift (0xFFFFFFFFFFFFFFFF : Word).toNat (joinWords 0xFFFFFFFFFFFFFFFF 0xFFFFFFFFFFFFFFFF) 0) =
        0xFFFFFFFFFFFFFFFE ∧
      limb 1 (mulShift (0xFFFFFFFFFFFFFFFF : Word).toNat (joinWords 0xFFFFFFFFFFFFFFFF 0xFFFFFFFFFFFFFFFF) 0) =
        0xFFFFFFFFFFFFFFFF ∧
      limb 0 (mulShift (0xFFFFFFFFFFFFFFFF : Word).toNat (joinWords 0xFFFFFFFFFFFFFFFF 0xFFFFFFFFFFFFFFFF) 0) =
        0x0000000000000001) ∧
    (limb 2 (mulShift (0x1234567890ABCDEF : Word).toNat (joinWords 0xFEDCBA0987654321 0x0F1E2D3C4B5A6978) 100) = 0 ∧
      limb 1 (mulShift (0x1234567890ABCDEF : Word).toNat (joinWords 0xFEDCBA0987654321 0x0F1E2D3C4B5A6978) 100) =
        0x000000000121FA00 ∧
      limb 0 (mulShift (0x1234567890ABCDEF : Word).toNat (joinWords 0xFEDCBA0987654321 0x0F1E2D3C4B5A6978) 100) =
        0x0A3723A57C35D7A9) := by
  decide

/-- Settles O49: the quotient is below `2^(192 - SH)`, so the result registers hold it whole and each corner case of SH
reads off this bound. -/
theorem mulshRule : Obligations.MulshRule := by
  unfold Obligations.MulshRule
  refine ⟨fun s sh => ?performed, fun c v hop => ?word⟩
  case performed =>
    have hfactor : factorF s < 2 ^ 128 := joinWords_lt _ _
    have hvalue := resultValue_mulShift s.opa hfactor 0x04 sh.toNat s
    have hbound := mulShift_lt s.opa hfactor sh.toNat
    refine ⟨_, exec_mulsh sh s, hvalue, rfl, keepsAllButResult_performedQuotient _ _ s, fun hzero => ?zero,
      fun hsh => ?unshifted, fun hsh => ?oneWord, fun hsh => ?topBit, fun hsh => ?beyond, fun ha hc hb hsh => ?largest,
      fun ha hc hb hsh => ?sample⟩
    case zero =>
      rw [hvalue]
      rcases hzero with ha | ⟨hc, hb⟩
      · simp [ha]
      · simp [factorF, joinWords, hc, hb]
    case unshifted =>
      rw [hvalue, hsh, mulShift_zero_shift]
      rfl
    case oneWord =>
      rw [hsh] at hbound
      rw [performedQuotient_res2, hsh]
      exact limb_eq_zero_of_lt hbound
    case topBit =>
      rw [hsh] at hbound
      rw [hvalue, hsh]
      exact Nat.le_of_lt_succ hbound
    case beyond =>
      rw [hvalue]
      exact mulShift_eq_zero s.opa hfactor hsh
    all_goals simp only [performedQuotient_res0, performedQuotient_res1, performedQuotient_res2, factorF, ha, hc, hb, hsh]
    case largest => exact mulsh_words.1
    case sample => exact mulsh_words.2
  case word =>
    obtain ⟨hreserved, hcommand⟩ := decode_shift (c := c) (m := .mulsh) hop (by decide)
    exact ⟨hreserved, fun hk hrsv => ⟨shField v, shField_toNat v, hcommand hk hrsv⟩⟩

/-! ### MULSHP5 (R101) -/

/-- The words of the example that R101 gives. -/
theorem mulshp5_words :
    limb 2 (mulShift (1000 : Word).toNat (pow5 27) 62) = 0 ∧
    limb 1 (mulShift (1000 : Word).toNat (pow5 27) 62) = 0x0000000000000193 ∧
    limb 0 (mulShift (1000 : Word).toNat (pow5 27) 62) = 0xE5939A08CE9DBD48 := by
  decide

/-- Settles O53: the entry has 125 bits, so the quotient is below `2^(189 - SH)`. -/
theorem mulshp5Rule : Obligations.Mulshp5Rule := by
  unfold Obligations.Mulshp5Rule
  refine ⟨fun s sh k hk => ?performed, fun c v hop => ?word⟩
  case performed =>
    have hentry : pow5 k.toNat < 2 ^ 125 := (pow5_bounds k.toNat).2
    have hvalue := resultValue_mulShift s.opa (hentry.trans (by norm_num)) 0x07 sh.toNat s
    have hwell : wellFormed s.sizes (.mulshp5 sh k) = true := decide_eq_true hk
    refine ⟨_, exec_mulshp5 hwell, hvalue, rfl, keepsAllButResult_performedQuotient _ _ s, fun ha => ?zero, ?highWord,
      fun hsh => ?beyond, ?sample⟩
    case zero =>
      rw [hvalue, ha]
      exact mulShift_zero_left _ _
    case highWord =>
      have hrange : resultValue _ < 2 ^ 189 := exec_resultRange hwell (exec_mulshp5 hwell)
      rw [resultValue] at hrange
      omega
    case beyond =>
      rw [hvalue]
      exact mulShift_eq_zero s.opa hentry hsh
    case sample =>
      rintro ha rfl rfl
      rw [performedQuotient_res0, performedQuotient_res1, performedQuotient_res2, ha]
      exact mulshp5_words
  case word =>
    obtain ⟨hreserved, hindex, hcommand⟩ := decode_fused (c := c) (m := .mulshp5) (n := c.p5Count) hop
      (by simp [ReservedNonzero, hop]) (by simp [IndexBeyond, hop])
    exact ⟨hreserved, hindex, fun hrsv hk =>
      ⟨shField v, kField v, shField_toNat v, kField_toNat v, hcommand hrsv hk⟩⟩

/-! ### MULSHP5I (R102) -/

/-- With SH = L(K) + 124 the reciprocal entry gives no less than the true quotient by `5^K`, since the entry is above
`2^SH / 5^K` (R81, R102). -/
theorem div_pow5_le_mulShift_pow5Inv (m : Nat) {k : Nat} (hk : k < 1024) :
    m / 5 ^ k ≤ mulShift m (pow5Inv k) (pow5Length k + 124) := by
  obtain ⟨-, habove, -⟩ := reciprocalEntryRule k hk
  have hpos := pow5Length_pos k
  have hexp : pow5Length k - 1 + 125 = pow5Length k + 124 := by omega
  rw [hexp] at habove
  rw [mulShift, Nat.le_div_iff_mul_le (by positivity)]
  calc m / 5 ^ k * 2 ^ (pow5Length k + 124) ≤ m / 5 ^ k * (pow5Inv k * 5 ^ k) := Nat.mul_le_mul_left _ habove.le
    _ = m / 5 ^ k * 5 ^ k * pow5Inv k := by ring
    _ ≤ m * pow5Inv k := Nat.mul_le_mul_right _ (Nat.div_mul_le_self _ _)

/-- The words of the example that R102 gives. -/
theorem mulshp5i_words :
    limb 0 (mulShift (10 ^ 17) (pow5Inv 17) 164) = 131072 ∧ limb 1 (mulShift (10 ^ 17) (pow5Inv 17) 164) = 0 ∧
    limb 2 (mulShift (10 ^ 17) (pow5Inv 17) 164) = 0 := by
  decide

/-- Settles O54: the entry has at most 126 bits, so the quotient fits; its bound from below is that of the entry. -/
theorem mulshp5iRule : Obligations.Mulshp5iRule := by
  unfold Obligations.Mulshp5iRule
  refine ⟨fun s sh k hk => ?performed, fun c v hop => ?word⟩
  case performed =>
    have hentry : pow5Inv k.toNat < 2 ^ 128 := (pow5Inv_bounds k.toNat).2.trans_lt (by norm_num)
    have hvalue := resultValue_mulShift s.opa hentry 0x08 sh.toNat s
    refine ⟨_, exec_mulshp5i (sh := sh) (decide_eq_true hk), hvalue, rfl, keepsAllButResult_performedQuotient _ _ s,
      fun ha => ?zero, fun hsh => ?above, ?sample⟩
    case zero =>
      rw [hvalue, ha]
      exact mulShift_zero_left _ _
    case above =>
      rw [hvalue, hsh]
      exact div_pow5_le_mulShift_pow5Inv _ k.isLt
    case sample =>
      rintro ha rfl rfl
      rw [performedQuotient_res0, performedQuotient_res1, performedQuotient_res2, ha]
      exact mulshp5i_words
  case word =>
    obtain ⟨hreserved, hindex, hcommand⟩ := decode_fused (c := c) (m := .mulshp5i) (n := c.p5iCount) hop
      (by simp [ReservedNonzero, hop]) (by simp [IndexBeyond, hop])
    exact ⟨hreserved, hindex, fun hrsv hk =>
      ⟨shField v, kField v, shField_toNat v, kField_toNat v, hcommand hrsv hk⟩⟩

end Sys2Proof.Machine
end

section
/-! What a command word ends in: the recorded cause, or the result (spec/60_exceptions.md R111, R115). -/

namespace Sys2Proof.Machine

/-- The step that takes a CMD write of a rejected word keeps the word, records the cause and replies OK (R111, R112). -/
theorem step_cmdWrite_of_rejected {s : State} {v : Word} {c : Cause} {rest : List HostInput}
    (h : Presents s ⟨.write, 0x18, .b8, v⟩ rest) (hd : decode s.sizes v = .rejected c) :
    step s = .next (giveReply ⟨.ok, 0⟩ (reject c (setCmd v { s with pending := rest }))) := by
  have hrun : execute v (setCmd v { s with pending := rest }) = .next (reject c (setCmd v { s with pending := rest })) :=
    execute_of_rejected hd
  calc step s = thenReply ⟨.ok, 0⟩ (execute v (setCmd v { s with pending := rest })) :=
        step_write (r := .cmd) h nofun nofun nofun
    _ = .next (giveReply ⟨.ok, 0⟩ (reject c (setCmd v { s with pending := rest }))) := by rw [hrun, thenReply]

/-- Settles O17: the code is that of the cause, and `reject` and `setCmd` write only ERR, ECAUSE and CMD. -/
theorem rejectionRecordsCauseOnly : Obligations.RejectionRecordsCauseOnly := by
  unfold Obligations.RejectionRecordsCauseOnly
  intro s v c rest h hd
  refine ⟨causeCode c, fun hc => ?illegal, fun hc => ?reserved, fun hc => ?index, step_cmdWrite_of_rejected h hd⟩
  case illegal => rw [hc, causeCode]
  case reserved => rw [hc, causeCode]
  case index => rw [hc, causeCode]

/-- Settles O22: `exec` rejects a command only for an index beyond its table; whatever the operands, it performs the others. -/
theorem wellFormedCommandsArePerformed : Obligations.WellFormedCommandsArePerformed :=
  fun _ _ hw => exec_of_wellFormed hw

end Sys2Proof.Machine
end

section
/-! Reset against the host's accesses, and the checks of STATUS after a command (spec/70_reset_and_hazards.md R130, R131,
R135). -/

namespace Sys2Proof.Machine

/-! ### Accesses around a reset (R130, R131) -/

/-- An access presented while reset is asserted is only taken off the list (R130; log entry 7). -/
theorem step_accessInReset {s : State} {a : Access} {rest : List HostInput} (hr : s.inReset = true)
    (hp : s.pending = .access a :: rest) : step s = .next { s with pending := rest } := by
  rw [← dropInput_of_pending hp]
  simp [step, nextInput, handleInput, hp, hr]

/-- An access that reset interrupts does what the assertion of reset alone does (R131; log entry 8). -/
theorem step_interruptedAccess {s : State} {a : Access} {rest : List HostInput}
    (hp : s.pending = .interruptedAccess a :: rest) : step s = .next (assertReset { s with pending := rest }) := by
  rw [← dropInput_of_pending hp]
  simp [step, nextInput, handleInput, hp]

/-- Settles O10: the access changes only the list of inputs, and a release leaves the reset values from any state. -/
theorem noAccessAcceptedInReset : Obligations.NoAccessAcceptedInReset := by
  unfold Obligations.NoAccessAcceptedInReset
  refine fun s rest hr => ⟨fun a hp => ?access, fun hp => ?release⟩
  case access => exact ⟨_, step_accessInReset hr hp, ⟨rfl, rfl, rfl, rfl, rfl, rfl, rfl, rfl, rfl, rfl⟩, rfl, hr⟩
  case release => exact ⟨_, step_resetReleased hr hp, atResetValues_releaseReset _, rfl, rfl, rfl, rfl⟩

/-- Settles O11: the interrupted access leaves the block in reset without a reply, and the release clears all of it. -/
theorem resetAbandonsAccess : Obligations.ResetAbandonsAccess := by
  unfold Obligations.ResetAbandonsAccess
  intro s a rest hp
  obtain ⟨u, hstep, hvalues, -, hreleased, -, hreplies, hpending⟩ :=
    step_released_values (s := assertReset { s with pending := .resetReleased :: rest }) rfl rfl
  exact ⟨_, u, step_interruptedAccess hp, rfl, hstep, hreplies, hvalues, hreleased, hpending⟩

/-! ### Check before use (R135) -/

/-- Settles O34: a rejected word sets ERR and keeps LASTOP, so it passes neither check; any other word is performed, and
the reply given after it keeps its results. -/
theorem checkBeforeUseIsSound : Obligations.CheckBeforeUseIsSound := by
  unfold Obligations.CheckBeforeUseIsSound
  intro s t v rest hp hstep hcheck
  cases hd : decode s.sizes v with
  | rejected c =>
    rw [step_cmdWrite_of_rejected hp hd] at hstep
    cases hstep
    rcases hcheck with ⟨-, herr⟩ | ⟨hold, hnew⟩
    · rw [giveReply_err, reject_err] at herr
      cases herr
    · exact absurd hnew hold
  | cmd i =>
    obtain ⟨u, hrun, hnext⟩ := step_cmdWrite hp
    rw [hnext] at hstep
    cases hstep
    have hperformed : execute v (setCmd v { s with pending := rest }) = exec i (setCmd v { s with pending := rest }) :=
      execute_of_cmd hd
    exact ⟨i, u, rfl, hperformed.symm.trans hrun, rfl, rfl, rfl⟩

end Sys2Proof.Machine
end

section
/-! What the spec infers of the lengths and the table entries (spec/00_scope.md section 5; 40_pow5.md R80, R81, R86). -/

namespace Sys2Proof.Machine

/-! ### The length (R13, R86) -/

theorem pow5Length_eq_succ_iff {k n : Nat} : pow5Length k = n + 1 ↔ 2 ^ n ≤ 5 ^ k ∧ 5 ^ k < 2 ^ (n + 1) := by
  rw [← pow5Length_le_iff, ← not_lt, ← pow5Length_le_iff]
  omega

/-- The largest lengths of the two default tables and of the K field. -/
theorem pow5Length_last : pow5Length 341 = 792 ∧ pow5Length 1023 = 2376 := by
  rw [pow5Length_eq_succ_iff, pow5Length_eq_succ_iff]
  decide +kernel

/-- Settles O44: lengths grow with the index, so the last index of a range has the largest. -/
theorem lengthBounds : Obligations.LengthBounds := by
  unfold Obligations.LengthBounds
  obtain ⟨h341, h1023⟩ := pow5Length_last
  refine ⟨fun k hk => ?default, fun k hk => ?field, h341, h1023⟩
  case default => exact h341 ▸ pow5Length_mono (Nat.le_of_lt_succ hk)
  case field => exact h1023 ▸ pow5Length_mono (Nat.le_of_lt_succ hk)

/-- Settles O38: the real logarithm of `5^k` is `k * log2 5`, and its floor is the logarithm of the natural number. -/
theorem lengthIsFloorOfLog : Obligations.LengthIsFloorOfLog := by
  unfold Obligations.LengthIsFloorOfLog
  intro k
  have hfloor : ⌊(k : ℝ) * Real.logb 2 5⌋ = (Nat.log2 (5 ^ k) : Int) := by
    calc ⌊(k : ℝ) * Real.logb 2 5⌋ = ⌊Real.logb (2 : Nat) ((5 ^ k : Nat) : ℝ)⌋ := by
          rw [← Real.logb_pow]
          norm_cast
      _ = Int.log 2 ((5 ^ k : Nat) : ℝ) := Real.floor_logb_natCast (Nat.cast_nonneg _)
      _ = Nat.log2 (5 ^ k) := by rw [Int.log_natCast, Nat.log2_eq_log_two]
  rw [hfloor, pow5Length, Nat.cast_succ]

/-! ### The entries (R80, R81) -/

/-- A power of five is odd, so dropping low bits of it always loses something. -/
theorem div_two_pow_mul_ne_five_pow {k n : Nat} (hn : n ≠ 0) : 5 ^ k / 2 ^ n * 2 ^ n ≠ 5 ^ k := by
  intro hexact
  have heven : 2 ∣ 5 ^ k := hexact ▸ Dvd.dvd.mul_left (dvd_pow_self 2 hn) _
  have hfive : 2 ∣ 5 := Nat.prime_two.dvd_of_dvd_pow heven
  omega

/-- The entry is its scaled power of five exactly when no bit is dropped. -/
theorem pow5_exact_iff {k : Nat} : pow5 k * 2 ^ pow5Length k = 5 ^ k * 2 ^ 125 ↔ pow5Length k ≤ 125 := by
  constructor
  · intro hexact
    by_contra htruncated
    rw [not_le] at htruncated
    have hsplit : 2 ^ pow5Length k = 2 ^ (pow5Length k - 125) * 2 ^ 125 := by
      rw [← pow_add, Nat.sub_add_cancel htruncated.le]
    rw [pow5_of_lt_length htruncated, hsplit, ← mul_assoc] at hexact
    exact div_two_pow_mul_ne_five_pow (by omega) (Nat.mul_right_cancel (by positivity) hexact)
  · intro hle
    rw [pow5_of_length_le hle, mul_assoc, ← pow_add, Nat.sub_add_cancel hle]

/-- Settles O40: the entry is exact when its length is at most 125, which is so up to index 53. -/
theorem forwardEntryExactUpTo53 : Obligations.ForwardEntryExactUpTo53 := by
  unfold Obligations.ForwardEntryExactUpTo53
  refine ⟨fun k => pow5_exact_iff.trans pow5Length_le_125_iff, ?last, ?next⟩
  case last =>
    rw [pow5Length_eq_succ_iff]
    decide
  case next =>
    rw [pow5Length_eq_succ_iff]
    decide

/-- Settles O42: the lower bound holds of every entry, the upper one from index 1 on. -/
theorem reciprocalEntryRange : Obligations.ReciprocalEntryRange :=
  fun k hpos hk => ⟨(pow5Inv_bounds k).1, pow5Inv_lt_two_pow hpos hk⟩

end Sys2Proof.Machine
end

section
/-! What the spec infers of the commands' results (spec/40_pow5.md R82; 41_widearith.md R91; 42_mulshift.md R101, R102). -/

namespace Sys2Proof.Machine

/-! ### SHR128 in terms of its two words (R91) -/

/-- Bit `j` of word `i` is bit `64 * i + j` of the value. -/
theorem limb_getLsbD {i j n : Nat} (hj : j < 64) : (limb i n).getLsbD j = n.testBit (64 * i + j) := by
  rw [← BitVec.testBit_toNat, limb_toNat, Nat.testBit_mod_two_pow, Nat.testBit_div_two_pow, decide_eq_true hj,
    Bool.true_and, Nat.add_comm]

theorem joinWords_testBit (hi lo : Word) (j : Nat) :
    (joinWords hi lo).testBit j = if j < 64 then lo.getLsbD j else hi.getLsbD (j - 64) := by
  rw [joinWords, mul_comm, Nat.testBit_two_pow_mul_add _ lo.isLt]
  rfl

/-- The low word of a shifted value: the low word's own upper bits, under the bits that come down from the high word. -/
theorem limb_zero_joinWords_div {hi lo : Word} {n : Nat} (hn : n ≤ 64) :
    limb 0 (joinWords hi lo / 2 ^ n) = (lo >>> n) ||| (hi <<< (64 - n)) := by
  apply BitVec.eq_of_getLsbD_eq
  intro j hj
  rw [limb_getLsbD hj, Nat.testBit_div_two_pow, joinWords_testBit, BitVec.getLsbD_or, BitVec.getLsbD_ushiftRight,
    BitVec.getLsbD_shiftLeft]
  rcases lt_or_ge (n + j) 64 with hlow | hhigh
  · have hbelow : j < 64 - n := by omega
    simp [hbelow, hlow, Nat.add_comm]
  · have habove : ¬ j < 64 - n := by omega
    have hindex : j + n - 64 = j - (64 - n) := by omega
    simp [hj, habove, Nat.add_comm, hhigh, ← hindex]

theorem limb_one_joinWords_div (hi lo : Word) (n : Nat) : limb 1 (joinWords hi lo / 2 ^ n) = hi >>> n := by
  apply BitVec.eq_of_toNat_eq
  rw [limb, Nat.div_div_eq_div_mul, ← pow_add, Nat.add_comm, joinWords_div_two_pow, BitVec.toNat_ushiftRight,
    BitVec.toNat_ofNat, Nat.shiftRight_eq_div_pow, Nat.mod_eq_of_lt ((Nat.div_le_self _ _).trans_lt hi.isLt)]

/-- Settles O47: the two words of the shifted value. -/
theorem shr128ByWords : Obligations.Shr128ByWords := by
  unfold Obligations.Shr128ByWords
  intro s sh _ hsh
  exact ⟨_, exec_shr128 sh s, limb_zero_joinWords_div (by omega), limb_one_joinWords_div s.opb s.opa sh.toNat⟩

/-! ### The top bits that P5LD writes (R82) -/

/-- The top bits of the high word of a value of exactly 125 bits. -/
theorem limb_one_of_125_bits {n : Nat} (hlow : 2 ^ 124 ≤ n) (hhigh : n < 2 ^ 125) :
    (limb 1 n).extractLsb' 61 3 = 0 ∧ (limb 1 n).getLsbD 60 = true := by
  constructor
  · apply BitVec.eq_of_toNat_eq
    simp only [BitVec.extractLsb'_toNat, limb_toNat, Nat.shiftRight_eq_div_pow, BitVec.ofNat_eq_ofNat, BitVec.toNat_ofNat]
    omega
  · rw [limb_getLsbD (by norm_num), Nat.testBit_eq_decide_div_mod_eq, decide_eq_true_eq]
    omega

/-- Settles O51: a forward entry has exactly 125 bits. -/
theorem p5ldTopBits : Obligations.P5ldTopBits := by
  unfold Obligations.P5ldTopBits
  intro s k hk
  obtain ⟨hlow, hhigh⟩ := pow5_bounds k.toNat
  exact ⟨_, exec_p5ld (decide_eq_true hk), limb_one_of_125_bits hlow hhigh⟩

/-! ### A fused command against its lookup and MULSH (R101, R102) -/

/-- MULSH with the two words of an entry in its factor registers multiplies by that entry. -/
theorem exec_mulsh_of_factor {s : State} {f : Nat} (hf : f < 2 ^ 128) (hb : s.opb = limb 0 f) (hc : s.opc = limb 1 f)
    (sh : BitVec 8) : exec (.mulsh sh) s = .next (performedQuotient 0x04 (mulShift s.opa.toNat f sh.toNat) s) := by
  rw [exec_mulsh, factorF, hb, hc, joinWords_limbs hf]

/-- Settles O55: a lookup leaves the two words of the entry, which is below `2^128`, and OPA as it was. -/
theorem fusedIsLoadThenMulsh : Obligations.FusedIsLoadThenMulsh := by
  unfold Obligations.FusedIsLoadThenMulsh
  intro s sh k
  refine ⟨fun hk => ?forward, fun hk => ?reciprocal⟩
  case forward =>
    have hfits : pow5 k.toNat < 2 ^ 128 := (pow5_bounds k.toNat).2.trans (by norm_num)
    exact ⟨_, _, _, exec_mulshp5 (decide_eq_true hk), exec_p5ld (decide_eq_true hk), exec_mulsh_of_factor hfits rfl rfl sh,
      rfl, rfl, rfl⟩
  case reciprocal =>
    have hfits : pow5Inv k.toNat < 2 ^ 128 := (pow5Inv_bounds k.toNat).2.trans_lt (by norm_num)
    exact ⟨_, _, _, exec_mulshp5i (decide_eq_true hk), exec_p5ild (decide_eq_true hk),
      exec_mulsh_of_factor hfits rfl rfl sh, rfl, rfl, rfl⟩

/-! ### The exact cases of the fused commands (R101, R102) -/

/-- Up to index 53 the shift by `125 - L(k)` takes back the scaling of the entry. -/
theorem mulShift_pow5_exact (m : Nat) {k : Nat} (hk : k ≤ 53) : mulShift m (pow5 k) (125 - pow5Length k) = m * 5 ^ k := by
  rw [mulShift, pow5_of_length_le (pow5Length_le_125_iff.mpr hk), ← mul_assoc, Nat.mul_div_cancel _ (by positivity)]

/-- Entry 0 is `2^125 + 1`, and a word is too small for the 1 to reach the quotient. -/
theorem mulShift_pow5Inv_zero (m : Word) : mulShift m.toNat (pow5Inv 0) 125 = m.toNat := by
  have hentry : pow5Inv 0 = 2 ^ 125 + 1 := by decide
  have hm := m.isLt
  rw [mulShift, hentry]
  omega

/-- Settles O56: each quotient fits the result registers and has the value of its exact case. -/
theorem fusedExactCases : Obligations.FusedExactCases := by
  unfold Obligations.FusedExactCases
  refine fun s sh k => ⟨fun hk hexact hsh => ?forward, fun hk => ?reciprocal⟩
  case forward =>
    have hfits : pow5 k.toNat < 2 ^ 128 := (pow5_bounds k.toNat).2.trans (by norm_num)
    refine ⟨_, exec_mulshp5 (decide_eq_true hk), (resultValue_mulShift s.opa hfits 0x07 sh.toNat s).trans ?_⟩
    rw [hsh]
    exact mulShift_pow5_exact s.opa.toNat hexact
  case reciprocal =>
    have hfits : pow5Inv 0 < 2 ^ 128 := (pow5Inv_bounds 0).2.trans_lt (by norm_num)
    exact ⟨_, exec_mulshp5i (decide_eq_true hk),
      (resultValue_mulShift s.opa hfits 0x08 125 s).trans (mulShift_pow5Inv_zero s.opa)⟩

end Sys2Proof.Machine
end

section
/-! The fields of an encoded word, an index beyond its table, and what every step does (spec/30_encoding.md R61; log entries
2, 4, 6, 7 and 11). -/

namespace Sys2Proof.Machine

/-- Settles O4: the fields read as numbers are the fields the word was made of. -/
theorem encodedWordHoldsItsFields : Obligations.EncodedWordHoldsItsFields := by
  unfold Obligations.EncodedWordHoldsItsFields
  intro op sh k
  refine ⟨?op, ?sh, ?k, ?rsv⟩
  case op => rw [← opField_toNat, opField_encodeFields]
  case sh => rw [← shField_toNat, shField_encodeFields]
  case k => rw [← kField_toNat, kField_encodeFields]
  case rsv =>
    rw [← rsvField_toNat, rsvField_encodeFields]
    rfl

/-! ### An index beyond its table (log entry 11) -/

theorem exec_of_not_wellFormed {i : Instr} {s : State} (hw : wellFormed s.sizes i = false) :
    exec i s = .next (reject .indexRange s) := by
  rcases exec_cases i s with ⟨hwell, -⟩ | ⟨-, hrejected⟩
  · simp [hw] at hwell
  · exact hrejected

/-- Settles O23: such a command is not well formed, and `exec` rejects it. -/
theorem indexBeyondTableIsRejected : Obligations.IndexBeyondTableIsRejected := by
  unfold Obligations.IndexBeyondTableIsRejected
  intro s sh k
  refine ⟨fun hk => ?forward, fun hk => ?reciprocal⟩
  case forward =>
    have hbeyond : decide (k.toNat < s.sizes.p5Count) = false := decide_eq_false hk.not_gt
    exact ⟨exec_of_not_wellFormed hbeyond, exec_of_not_wellFormed hbeyond⟩
  case reciprocal =>
    have hbeyond : decide (k.toNat < s.sizes.p5iCount) = false := decide_eq_false hk.not_gt
    exact ⟨exec_of_not_wellFormed hbeyond, exec_of_not_wellFormed hbeyond⟩

/-! ### Every step (log entries 2, 4, 6 and 7) -/

/-- Settles O36: a step with nothing pending is the idle one. -/
theorem idleBlockKeepsState : Obligations.IdleBlockKeepsState := by
  unfold Obligations.IdleBlockKeepsState
  intro s hidle
  rcases step_cases s with ⟨-, hstep⟩ | ⟨e, rest, hp, -⟩
  · exact hstep
  · simp [hidle] at hp

theorem step_next (s : State) : ∃ t, step s = .next t := by
  rcases step_cases s with ⟨-, h⟩ | ⟨e, rest, -, ⟨h, -⟩ | ⟨h, -⟩ | ⟨h, -⟩ | ⟨a, h, -⟩⟩
  case inr.inr.inr.inr =>
    obtain ⟨r, t, haccess, -⟩ := hostAccess_host a (dropInput s)
    exact ⟨t, h.trans haccess⟩
  all_goals exact ⟨_, h⟩

/-- Settles O21: each kind of step answers a next state, and so does each command. -/
theorem everyStepAnswers : Obligations.EveryStepAnswers := ⟨step_next, exec_next⟩

theorem AtResetValues.of_keepsBlock {s t : State} (hs : AtResetValues s) (hk : KeepsBlock s t) : AtResetValues t :=
  ⟨hk.opa.trans hs.opa, hk.opb.trans hs.opb, hk.opc.trans hs.opc, hk.cmd.trans hs.cmd, hk.err.trans hs.err,
    hk.ecause.trans hs.ecause, hk.lastop.trans hs.lastop, hk.res0.trans hs.res0, hk.res1.trans hs.res1,
    hk.res2.trans hs.res2⟩

/-- Settles O12: a step keeps the block, resets it, or takes a legal write, which the block accepts only out of reset. -/
theorem resetHoldsBlockCleared : Obligations.ResetHoldsBlockCleared := by
  unfold Obligations.ResetHoldsBlockCleared
  refine ⟨fun _ => atResetValues_reset, fun s t hs hstep hreset => ?_⟩
  rcases step_block hstep with ⟨hk, -, hlevel⟩ | ⟨hz, -⟩ | ⟨v, rest, hlevel, -, hwrite⟩
  · exact (hs (hlevel ▸ hreset)).of_keepsBlock hk
  · exact hz
  · have hreleased : s.inReset = false := by
      rcases hwrite with ⟨hp, -⟩ | ⟨hp, -⟩ | ⟨hp, -⟩ | ⟨hp, -⟩ | ⟨hp, -⟩ <;> exact hp.released
    simp [hlevel, hreleased] at hreset

end Sys2Proof.Machine
end

section
/-! An access issued twice in a row (spec/20_memory.md R44 to R48). -/

namespace Sys2Proof.Machine

/-! ### The same block -/

theorem KeepsBlock.trans {s t u : State} (h : KeepsBlock s t) (h' : KeepsBlock t u) : KeepsBlock s u :=
  ⟨h'.opa.trans h.opa, h'.opb.trans h.opb, h'.opc.trans h.opc, h'.cmd.trans h.cmd, h'.err.trans h.err,
    h'.ecause.trans h.ecause, h'.lastop.trans h.lastop, h'.res0.trans h.res0, h'.res1.trans h.res1, h'.res2.trans h.res2⟩

theorem keepsBlock_giveReply (r : Reply) (s : State) : KeepsBlock s (giveReply r s) :=
  ⟨rfl, rfl, rfl, rfl, rfl, rfl, rfl, rfl, rfl, rfl⟩

theorem keepsBlock_pending (s : State) (rest : List HostInput) : KeepsBlock s { s with pending := rest } :=
  ⟨rfl, rfl, rfl, rfl, rfl, rfl, rfl, rfl, rfl, rfl⟩

/-! ### A command word run twice (R48) -/

theorem operandsRead_operand {m : Mnemonic} {r : WinReg} (h : r ∈ operandsRead m) : r = .opa ∨ r = .opb ∨ r = .opc := by
  revert h
  cases m <;> cases r <;> decide

/-- A command that is performed after its own results are in place writes them again (R48). -/
theorem exec_repeated {i : Instr} {s t s' : State} (hw : wellFormed s.sizes i = true) (h : exec i s = .next t)
    (hsizes : s'.sizes = s.sizes) (hkeeps : KeepsBlock t s') : ∃ u, exec i s' = .next u ∧ KeepsBlock s' u := by
  obtain ⟨t', ht, -, hframe⟩ := exec_of_wellFormed hw
  obtain ⟨u, hu, -, hframe'⟩ := exec_of_wellFormed (s := s') (hsizes.symm ▸ hw)
  cases ht.symm.trans h
  have hregs : ∀ r ∈ operandsRead (mnemonicOf i), readReg r s = readReg r s' := by
    intro r hr
    rcases operandsRead_operand hr with rfl | rfl | rfl
    · exact (hkeeps.opa.trans hframe.opa).symm
    · exact (hkeeps.opb.trans hframe.opb).symm
    · exact (hkeeps.opc.trans hframe.opc).symm
  obtain ⟨t'', u', ht', hu', h0, h1, h2, hop⟩ := unreadRegistersDoNotMatter i s s' hsizes.symm hw hregs
  cases ht'.symm.trans h
  cases hu'.symm.trans hu
  exact ⟨u, hu, hframe'.opa, hframe'.opb, hframe'.opc, hframe'.cmd, hframe'.err, hframe'.ecause,
    hop.symm.trans hkeeps.lastop.symm, h0.symm.trans hkeeps.res0.symm, h1.symm.trans hkeeps.res1.symm,
    h2.symm.trans hkeeps.res2.symm⟩

/-- Storing and running a command word on the block that the same word left changes no register. -/
theorem execute_setCmd_repeated {v : Word} {s t s' : State} (h : execute v (setCmd v s) = .next t)
    (hsizes : s'.sizes = s.sizes) (hkeeps : KeepsBlock t s') :
    ∃ u, execute v (setCmd v s') = .next u ∧ KeepsBlock s' u := by
  have hcmd : s'.cmd = v := hkeeps.cmd.trans (execute_keeps_operands h).2.2.2
  have hstored : KeepsBlock s' (setCmd v s') := ⟨rfl, rfl, rfl, hcmd.symm, rfl, rfl, rfl, rfl, rfl, rfl⟩
  cases hd : decode s.sizes v with
  | rejected c =>
    cases (execute_of_rejected (s := setCmd v s) hd).symm.trans h
    have hrecorded : KeepsBlock (setCmd v s') (reject c (setCmd v s')) :=
      ⟨rfl, rfl, rfl, rfl, hkeeps.err.symm, hkeeps.ecause.symm, rfl, rfl, rfl, rfl⟩
    exact ⟨_, execute_of_rejected (hsizes.symm ▸ hd), hstored.trans hrecorded⟩
  | cmd i =>
    rw [execute_of_cmd (s := setCmd v s) hd] at h
    rw [execute_of_cmd (s := setCmd v s') (hsizes.symm ▸ hd)]
    obtain ⟨u, hu, hk⟩ := exec_repeated (s := setCmd v s) (s' := setCmd v s') (decode_wellFormed hd).1 h hsizes
      (hkeeps.trans hstored)
    exact ⟨u, hu, hstored.trans hk⟩

/-! ### A register written twice (R44, R45) -/

theorem keepsBlock_statusWrite_repeated {v : Word} {s s' : State} (hkeeps : KeepsBlock (statusWrite v s) s') :
    KeepsBlock s' (statusWrite v s') := by
  cases hbit : v.getLsbD 0 with
  | false =>
    rw [statusWrite_of_clear hbit]
    exact .refl s'
  | true =>
    rw [statusWrite_of_set hbit] at hkeeps ⊢
    exact ⟨rfl, rfl, rfl, rfl, hkeeps.err.symm, hkeeps.ecause.symm, rfl, rfl, rfl, rfl⟩

/-- Storing in a register what the same write has left there changes no register. -/
theorem writeReg_repeated {r : WinReg} {v : Word} {s t s' : State} (h : writeReg r v s = .next t)
    (hsizes : s'.sizes = s.sizes) (hkeeps : KeepsBlock t s') : ∃ u, writeReg r v s' = .next u ∧ KeepsBlock s' u := by
  cases r with
  | cmd => exact execute_setCmd_repeated h hsizes hkeeps
  | res0 | res1 | res2 => exact ⟨s', rfl, .refl s'⟩
  | opa =>
    cases h
    exact ⟨_, rfl, hkeeps.opa.symm, rfl, rfl, rfl, rfl, rfl, rfl, rfl, rfl, rfl⟩
  | opb =>
    cases h
    exact ⟨_, rfl, rfl, hkeeps.opb.symm, rfl, rfl, rfl, rfl, rfl, rfl, rfl, rfl⟩
  | opc =>
    cases h
    exact ⟨_, rfl, rfl, rfl, hkeeps.opc.symm, rfl, rfl, rfl, rfl, rfl, rfl, rfl⟩
  | status =>
    cases h
    exact ⟨_, rfl, keepsBlock_statusWrite_repeated hkeeps⟩

/-! ### An access (R40) -/

/-- Whether an access writes a register does not depend on the state: a bus error and a read only give a reply. -/
theorem hostAccess_only_replies_or_writes (a : Access) :
    (∀ s, ∃ r, hostAccess a s = .next (giveReply r s)) ∨
    (∀ s, hostAccess a s = thenReply ⟨.ok, 0⟩ (writeReg (regAt a.off) a.wdata s)) := by
  cases hcheck : busCheck a with
  | some kind => exact .inl fun s => ⟨⟨.busError kind, 0⟩, by simp only [hostAccess, hcheck]⟩
  | none =>
    cases hdir : a.dir with
    | read => exact .inl fun s => ⟨⟨.ok, readReg (regAt a.off) s⟩, by simp only [hostAccess, hcheck, hdir]⟩
    | write => exact .inr fun s => by simp only [hostAccess, hcheck, hdir]

theorem hostAccess_repeated {a : Access} {s t s' : State} (h : hostAccess a s = .next t) (hsizes : s'.sizes = s.sizes)
    (hkeeps : KeepsBlock t s') : ∃ u, hostAccess a s' = .next u ∧ KeepsBlock s' u := by
  rcases hostAccess_only_replies_or_writes a with hreply | hwrite
  · obtain ⟨r, hr⟩ := hreply s'
    exact ⟨_, hr, keepsBlock_giveReply r s'⟩
  · obtain ⟨w, hw, -⟩ := writeReg_next (regAt a.off) a.wdata s
    rw [hwrite, hw] at h
    cases h
    obtain ⟨u, hu, hk⟩ := writeReg_repeated hw hsizes ((keepsBlock_giveReply _ w).trans hkeeps)
    exact ⟨giveReply ⟨.ok, 0⟩ u, by rw [hwrite, hu, thenReply], hk.trans (keepsBlock_giveReply _ u)⟩

/-- Settles O33: the second access meets the block as the first left it; only the list of inputs has changed. -/
theorem repeatedAccessChangesNothingMore : Obligations.RepeatedAccessChangesNothingMore := by
  unfold Obligations.RepeatedAccessChangesNothingMore
  intro s a rest hr hp
  obtain ⟨r, t, haccess, -, hpending, hlevel, hsizes⟩ := hostAccess_host a { s with pending := .access a :: rest }
  have hkept := keepsBlock_pending t rest
  obtain ⟨u, hrepeat, hkeeps⟩ := hostAccess_repeated (s' := { t with pending := rest }) haccess hsizes hkept
  exact ⟨t, u, (step_of_presents ⟨hr, hp⟩).trans haccess, (step_of_presents ⟨hlevel.trans hr, hpending⟩).trans hrepeat,
    hkept.trans hkeeps⟩

end Sys2Proof.Machine
end
